-- ==== Sys2Proof/Word.lean ====
section
/-! DEFINITION. The plain words of MAX22190-CORE: a byte and the three-byte frame buffer. -/

namespace Sys2Proof

/-- Every data register, address and data operand of the block is 8 bits wide
(00_scope.md section 5; R14, R15, R30, R55). -/
abbrev Byte := BitVec 8

/-- Three bytes indexed as the frame buffer `BUF[0..2]` is (R11). -/
structure Frame where
  b0 : Byte
  b1 : Byte
  b2 : Byte
  deriving DecidableEq, Repr, Inhabited

end Sys2Proof
end

