-- ==== Sys2Proof/Config.lean ====
section
/-! DEFINITION. What one instance of the block fixes (the parameters of R6) and the free
values: constants with no body, so no proof can see what they are. -/

namespace Sys2Proof

/-- The named parameters of R6, one field for each row, fixed for one instance of the
block. -/
structure Params where
  /-- P_CRC_EN: the value of `CRC_EN` for the life of the instance. -/
  crcEn : Bool
  /-- P_CHIPADDR: the `chipAddress` passed on every exchange (R34). -/
  chipAddr : Byte
  /-- P_ADDR_STATUS: the status register INIT reads. -/
  addrStatus : Byte
  /-- P_POR_MASK: selects the power-on-reset flag of that register. -/
  porMask : Byte
  /-- P_INIT_WRITE_IF_POR: the polarity of INIT's write branch (conflict C1). -/
  initWriteIfPor : Bool
  /-- P_INIT_WRITES: INIT's configuration writes (address, value), in order. -/
  initWrites : List (Byte × Byte)
  /-- P_ADDR_FAULTEN: the fault-enable register INIT reads back. -/
  addrFaultEn : Byte
  /-- P_FAULTEN_EXPECT: the value INIT expects there. -/
  faultEnExpect : Byte
  /-- P_ADDR_NOP: the address of REFRESH's no-op write. -/
  addrNop : Byte
  /-- P_NOP_DATA: the data byte of that write. -/
  nopData : Byte
  /-- P_ADDR_FILTER_BASE: the filter register of channel 0. -/
  addrFilterBase : Byte
  /-- P_ADDR_FAULT_HI: read first by GETFLT (upper byte). -/
  addrFaultHi : Byte
  /-- P_ADDR_FAULT_LO: read second by GETFLT (lower byte). -/
  addrFaultLo : Byte
  /-- ERR bit assignment: which of the two bits of `ERR` is COMM (D4 recommends bit 0).  The other
  one is INTEG, so the two positions always differ (R13; DEDUCED, log 20). -/
  commBit : Fin 2
  deriving DecidableEq, Repr, Inhabited

/-- The transport's return from one call: ok or fail and, for an exchange, the bytes it
received (R33 to R36). -/
structure Reply where
  ok : Bool
  rx : Frame
  deriving DecidableEq, Repr, Inhabited

/-- What the transport does about the outstanding call: return from it, or not yet (R44). -/
inductive Answer where
  /-- The call has not returned: the block stays in the phase that made it. -/
  | silent
  /-- The call returns with `r`. -/
  | reply (r : Reply)
  deriving DecidableEq, Repr, Inhabited

/-- The parameters of the instance.  DESIGN CHOICE (log 1): no value is built in (R6: "A
model must not build any of the GK defaults in; it takes them as arguments"). -/
opaque Config.params : Params

/-- The transport's `n`-th free answer: any result flag, any received bytes, or none yet
(R36, R44; U1 to U3, U17). -/
opaque Config.freeAnswer : Nat → Answer

/-- `ERR` after reset: "unspecified: either bit may hold 0 or 1" (R22). -/
opaque Config.resetErr : BitVec 2

/-- `DI` after reset: "unspecified: any 8-bit value" (R22). -/
opaque Config.resetDi : Byte

/-- `WB` after reset: "unspecified: any 8-bit value" (R22). -/
opaque Config.resetWb : Byte

/-- `BUF[0..2]` after reset: unspecified (R22). -/
opaque Config.resetBuf : Frame

/-- `LEN` after reset: unspecified (R22). -/
opaque Config.resetLen : BitVec 2

/-- `CRC_OUT` before the first word is presented on the checksum port: the spec states no
value (R58). -/
opaque Config.resetCrcOut : BitVec 5

end Sys2Proof
end

