-- ==== Sys2Proof/Syntax.lean ====
section
/-! DEFINITION. The instructions: one constructor for each row of spec/opcode_table.json,
and the words a requester presents on the block's two ports. -/

namespace Sys2Proof

/-- The seven rows of the opcode table (R56, R58).  Operands the block ignores (R54) are
not part of an instruction. -/
inductive Instr where
  /-- `CRC5 w`: one evaluation on the checksum engine's own port (R58, R70). -/
  | crc5 (w : BitVec 24)
  /-- `RDREG a`: read one remote register (R90). -/
  | rdreg (a : Byte)
  /-- `WRREG a, d`: write one remote register (R91). -/
  | wrreg (a d : Byte)
  /-- `INIT` (R101). -/
  | init
  /-- `REFRESH` (R102). -/
  | refresh
  /-- `SETFILT m, v`: channel mask and filter-setting value (R103). -/
  | setfilt (m v : Byte)
  /-- `GETFLT` (R105). -/
  | getflt
  deriving DecidableEq, Repr

/-- What the requester presents: a 19-bit command word on the command port (R54, R80), or
a 24-bit word on the checksum engine's port `CRC_IN` (R58). -/
inductive Request where
  | cmd (w : BitVec 19)
  | crcIn (w : BitVec 24)
  deriving DecidableEq, Repr

end Sys2Proof
end

