-- ==== Sys2Proof/Machine/State.lean ====
section
/-! DEFINITION. The state of the block (R10), the reasons a step can stop, and the state
after reset (R22, R140). -/

namespace Sys2Proof.Machine

/-- The position of the protocol sequencer (R17).  The unused value 7 is never entered and
has no constructor; `Phase.code` gives the 3-bit encoding. -/
inductive Phase where
  | idle | build | acquire | exchange | release | verify | update
  deriving DecidableEq, Repr

/-- The direction of a transaction: `op` in {RD, WR} (R81). -/
inductive Dir where
  | rd | wr
  deriving DecidableEq, Repr

/-- The arguments of `Transact(op, a, d)` (R81). -/
structure Txn where
  dir : Dir
  addr : Byte
  data : Byte
  deriving DecidableEq, Repr

/-- `OPSTATE` (R18): the command in progress, the transaction of it that is in progress,
and the temporaries it keeps.  The two primitive commands stand here too, because the
sequencer needs their operands until UPDATE.  DESIGN CHOICE (log 9): the spec leaves the
encoding to the model. -/
inductive Progress where
  /-- RDREG's one transaction. -/
  | rdreg (a : Byte)
  /-- WRREG's one transaction. -/
  | wrreg (a d : Byte)
  /-- INIT reading the status register. -/
  | initStatus
  /-- INIT writing `value` to `addr`, with `rest` still to write; `status` is the byte read
  first. -/
  | initWrite (status addr value : Byte) (rest : List (Byte × Byte))
  /-- INIT reading the fault-enable register back. -/
  | initReadback (status : Byte)
  /-- REFRESH's one transaction. -/
  | refresh
  /-- SETFILT writing filter `v` of channel `i`, a member of mask `m`. -/
  | setfilt (m v : Byte) (i : Fin 8)
  /-- GETFLT reading the high-order fault register. -/
  | getfltHi
  /-- GETFLT reading the low-order one, with `hi` read. -/
  | getfltLo (hi : Byte)
  deriving DecidableEq, Repr

/-- The response of the most recently completed command (R93, R106). -/
inductive Response where
  /-- No response value: after WRREG and SETFILT, "the response value undefined, not the
  previous one" (R93; U15: not observable), and before any command has completed. -/
  | none
  /-- RDREG: 8 bits. -/
  | byte (v : Byte)
  /-- INIT and REFRESH: the 2-bit `ERR`. -/
  | errMask (e : BitVec 2)
  /-- GETFLT: the 16-bit fault word. -/
  | faults (v : BitVec 16)
  deriving DecidableEq, Repr

/-- One call the block makes at its transport port (R33 to R35). -/
inductive Call where
  | acquire
  /-- `T_Exchange(chipaddr, tx, len)`; `len` is the length of `tx`. -/
  | exchange (chip : Byte) (tx : List Byte)
  | release
  deriving DecidableEq, Repr

/-- The block takes no trap and stops on no error (R124, R92), so no step faults: the type
has no constructor. -/
inductive Fault where
  deriving DecidableEq, Repr

/-- Why a model refuses what the requester presents.  Each is safe: the model stops where
the spec gives no meaning. -/
inductive Refusal where
  /-- An instruction of the table with no meaning in `exec`.  No arm answers so.  Safe. -/
  | notModelled (mnemonic : String)
  /-- A command presented while a command is in progress (R80, D11): raised by the six
  commands.  Safe. -/
  | busy
  /-- SETFILT with an empty channel mask (R103, D15): raised by SETFILT.  Safe. -/
  | emptyMask
  /-- A command word with OP 0b110 or 0b111 (R57, D10): raised by the step that decodes it.
  Safe. -/
  | reservedOp (op : BitVec 3)
  deriving DecidableEq, Repr

/-- The whole state.  The first nine fields are the spec's (R10, R93); the others are the
model's own rendering of the instance's parameters and of the block's three ports. -/
structure State where
  /-- `CRC_EN` (R12): checked mode. -/
  crcEn : Bool
  /-- `ERR` (R13): one bit for COMM and one for INTEG, `ErrKind.position` says which. -/
  err : BitVec 2
  /-- `DI` (R14): the digital-input snapshot. -/
  di : Byte
  /-- `WB` (R15): the wire-break snapshot. -/
  wb : Byte
  /-- `BUF[0..2]` (R11). -/
  buf : Frame
  /-- `LEN` (R16): the number of bytes an exchange moves. -/
  len : BitVec 2
  /-- `PHASE` (R17). -/
  phase : Phase
  /-- `OPSTATE` (R18); `none` is "no operation in progress". -/
  op : Option Progress
  /-- The response value held since the last command completed (R93). -/
  response : Response
  /-- The instance's parameters (R6, R9): never written. -/
  params : Params
  /-- Command port and `CRC_IN`: what the requester has still to present, in its order
  (R41 (a), R80).  It is the requester's list, not a queue of the block. -/
  requests : List Request
  /-- Transport port, inward: answers already settled, oldest first (R36, R44). -/
  answers : List Answer
  /-- How many free answers have been drawn after `answers` ran out. -/
  draws : Nat
  /-- Transport port, outward: every call made, oldest first (R33 to R35). -/
  calls : List Call
  /-- `CRC_OUT`: the checksum port's output for the last word presented there (R58). -/
  crcOut : BitVec 5
  deriving DecidableEq, Repr

/-- After reset (R22, R140): the mode is the parameter's, the sequencer is idle, no
operation is in progress, no transport call has been made; the registers R22 calls
unspecified hold the free constants of Config.  DESIGN CHOICE (logs 1 to 8). -/
def State.reset : State where
  crcEn := Config.params.crcEn
  err := Config.resetErr
  di := Config.resetDi
  wb := Config.resetWb
  buf := Config.resetBuf
  len := Config.resetLen
  phase := .idle
  op := none
  response := .none
  params := Config.params
  requests := []
  answers := []
  draws := 0
  calls := []
  crcOut := Config.resetCrcOut

end Sys2Proof.Machine
end

