-- ==== Sys2Proof/Machine/Checksum.lean ====
section
/-! DEFINITION. The checksum engine (40_checksum.md): the function CRC5 and the meaning of
the instruction that evaluates it on its own port. -/

namespace Sys2Proof.Machine

/-- MARKER (R5). -/
def marker : BitVec 5 := 0b00111

/-- POLY (R5): x^5 + x^4 + x^2 + 1. -/
def poly : BitVec 6 := 0b110101

/-- Step 2 of R70: the low five bits of the frame word forced to the marker. -/
def markWord (w : BitVec 24) : BitVec 24 := w.extractLsb' 5 19 ++ marker

/-- "if bit 5 of this register is set, XOR the whole register with" the polynomial
(R70, steps 3 and 4). -/
def condXor (r : BitVec 6) : BitVec 6 := if r.getLsbD 5 then r ^^^ poly else r

/-- One iteration of step 4 of R70: the low five bits of the register move up one place and
`b` enters at the bottom. -/
def crcStep (r : BitVec 6) (b : Bool) : BitVec 6 :=
  condXor (r.extractLsb' 0 5 ++ BitVec.ofBool b)

/-- Step 4 of R70 over bits `n-1` down to 0 of `v`. -/
def crcLoop (v : BitVec 24) : Nat → BitVec 6 → BitVec 6
  | 0, r => r
  | n + 1, r => crcLoop v n (crcStep r (v.getLsbD n))

/-- `CRC5(w)` (R70). -/
def crc5 (w : BitVec 24) : BitVec 5 :=
  let v := markWord w
  (crcLoop v 18 (condXor (v.extractLsb' 18 6))).extractLsb' 0 5

/-- CRC5 on the engine's own port: `CRC_OUT = CRC5(CRC_IN)` (R58).  The engine is a pure
function with no state (R70), so the evaluation is possible while a command is in progress
and touches no register. -/
def execCrc5 (w : BitVec 24) (s : State) : Host.Outcome State Fault Refusal :=
  .next { s with crcOut := crc5 w }

end Sys2Proof.Machine
end

