-- ==== Sys2Proof/Decode.lean ====
section
/-! DEFINITION. The decoder of the two ports, total on every word, and the encoder. -/

namespace Sys2Proof

/-- Why a command word is not accepted. -/
inductive DecodeError where
  /-- OP 0b110 and 0b111 are reserved (R57). -/
  | reservedOp (op : BitVec 3)
  deriving DecidableEq, Repr

/-- CMD[18:16], the operation code (R54). -/
def cmdOp (w : BitVec 19) : BitVec 3 := w.extractLsb' 16 3

/-- CMD[15:8], the field A (R54). -/
def cmdA (w : BitVec 19) : Byte := w.extractLsb' 8 8

/-- CMD[7:0], the field D (R54). -/
def cmdD (w : BitVec 19) : Byte := w.extractLsb' 0 8

/-- A command word from its three fields (R54). -/
def cmdWord (op : BitVec 3) (a d : Byte) : BitVec 19 := op ++ a ++ d

/-- The opcode map of R56 over the fields of R54.  Fields an operation ignores are not
looked at. -/
def decodeCmd (w : BitVec 19) : Except DecodeError Instr :=
  match (cmdOp w).toNat with
  | 0 => .ok (.rdreg (cmdA w))
  | 1 => .ok (.wrreg (cmdA w) (cmdD w))
  | 2 => .ok .init
  | 3 => .ok .refresh
  | 4 => .ok (.setfilt (cmdA w) (cmdD w))
  | 5 => .ok .getflt
  | _ => .error (.reservedOp (cmdOp w))

/-- A presented word decoded.  Every word of the checksum port is a CRC5 evaluation (R58). -/
def decode : Request → Except DecodeError Instr
  | .cmd w => decodeCmd w
  | .crcIn w => .ok (.crc5 w)

/-- The word a requester presents for an instruction, ignored fields zero (R54, R56, R58,
R59). -/
def encode : Instr → Request
  | .crc5 w => .crcIn w
  | .rdreg a => .cmd (cmdWord 0 a 0)
  | .wrreg a d => .cmd (cmdWord 1 a d)
  | .init => .cmd (cmdWord 2 0 0)
  | .refresh => .cmd (cmdWord 3 0 0)
  | .setfilt m v => .cmd (cmdWord 4 m v)
  | .getflt => .cmd (cmdWord 5 0 0)

/-- The request meant by an opcode-table word of `nbits` bits.  The two ports are told apart
by width, and the table's rows of both ports round to 24 bits, so a number below 2^19 is
taken as a command word and a larger 24-bit number as a word of the checksum port.
DESIGN CHOICE (log 12). -/
def tableRequest (_nbits w : Nat) : Option Request :=
  if w < 2 ^ 19 then some (.cmd (BitVec.ofNat 19 w))
  else if w < 2 ^ 24 then some (.crcIn (BitVec.ofNat 24 w))
  else none

/-- The instruction the decoder reads from an opcode-table word. -/
def decodeTableWord (nbits w : Nat) : Option Instr :=
  match tableRequest nbits w with
  | none => none
  | some r =>
    match decode r with
    | .ok i => some i
    | .error _ => none

end Sys2Proof
end

