-- ==== Sys2Proof/Machine/Operands.lean ====
section
/-! DEFINITION. The forms operands take on the link: the frame word, the transmitted frame,
the addresses the logical operations use, the channels of a mask. -/

namespace Sys2Proof.Machine

/-- The 3-bit encoding of `PHASE` (R17). -/
def Phase.code : Phase → BitVec 3
  | .idle => 0
  | .build => 1
  | .acquire => 2
  | .exchange => 3
  | .release => 4
  | .verify => 5
  | .update => 6

/-- `FRAME = BUF[0] ++ BUF[1] ++ BUF[2]`, byte 0 most significant (R31). -/
def frameWord (f : Frame) : BitVec 24 := f.b0 ++ f.b1 ++ f.b2

/-- Byte 0 of the outgoing frame: the address ORed, unmasked, with the direction marker
(R83). -/
def byte0 (x : Txn) : Byte :=
  match x.dir with
  | .rd => x.addr ||| 0x00
  | .wr => x.addr ||| 0x80

/-- Byte 1 of the outgoing frame: 0 for a read, the value for a write (R82). -/
def byte1 (x : Txn) : Byte :=
  match x.dir with
  | .rd => 0x00
  | .wr => x.data

/-- The buffer BUILD leaves (R82 to R84): in checked mode byte 2 is the checksum of the
buffer built with byte 2 zero, zero-extended; in unchecked mode it stays 0. -/
def builtFrame (crcEn : Bool) (x : Txn) : Frame :=
  let f : Frame := ⟨byte0 x, byte1 x, 0x00⟩
  if crcEn then { f with b2 := (crc5 (frameWord f)).setWidth 8 } else f

/-- The frame length of a mode (R16, R50). -/
def frameLen (crcEn : Bool) : BitVec 2 := if crcEn then 3 else 2

/-- `BUF[0..len-1]`, in index order: the bytes handed to the transport (R32, R34). -/
def sentBytes (f : Frame) (len : BitVec 2) : List Byte := [f.b0, f.b1, f.b2].take len.toNat

/-- The exchange in place: `BUF[i] <- rx[i]` for every `i < len`; the other bytes keep
their value (R34). -/
def exchanged (f : Frame) (len : BitVec 2) (rx : Frame) : Frame where
  b0 := if 0 < len.toNat then rx.b0 else f.b0
  b1 := if 1 < len.toNat then rx.b1 else f.b1
  b2 := if 2 < len.toNat then rx.b2 else f.b2

/-- `FilterAddr(i) = P_ADDR_FILTER_BASE + 2*i`, at 8 bits (R104). -/
def filterAddr (p : Params) (i : Fin 8) : Byte := p.addrFilterBase + BitVec.ofNat 8 (2 * i.val)

/-- The channel indices, ascending. -/
def channelIndices : List (Fin 8) := [0, 1, 2, 3, 4, 5, 6, 7]

/-- The least channel of mask `m` whose index is at least `n` (R103: ascending order). -/
def nextChannel (m : Byte) (n : Nat) : Option (Fin 8) :=
  channelIndices.find? (fun i => decide (n ≤ i.val) && m.getLsbD i.val)

/-- `por == (P_INIT_WRITE_IF_POR == 1)`: whether INIT takes its write branch on status byte
`s` (R101). -/
def takesWriteBranch (p : Params) (s : Byte) : Bool := ((s &&& p.porMask) != 0) == p.initWriteIfPor

/-- The transaction a command has in progress (R90, R91, R101 to R105). -/
def Progress.txn (p : Params) : Progress → Txn
  | .rdreg a => ⟨.rd, a, 0⟩
  | .wrreg a d => ⟨.wr, a, d⟩
  | .initStatus => ⟨.rd, p.addrStatus, 0⟩
  | .initWrite _ a v _ => ⟨.wr, a, v⟩
  | .initReadback _ => ⟨.rd, p.addrFaultEn, 0⟩
  | .refresh => ⟨.wr, p.addrNop, p.nopData⟩
  | .setfilt _ v i => ⟨.wr, filterAddr p i, v⟩
  | .getfltHi => ⟨.rd, p.addrFaultHi, 0⟩
  | .getfltLo _ => ⟨.rd, p.addrFaultLo, 0⟩

/-- A bound on the transactions a command has still to finish, the one in progress
included. -/
def Progress.txnsLeft (p : Params) : Progress → Nat
  | .rdreg _ => 1
  | .wrreg _ _ => 1
  | .initStatus => p.initWrites.length + 2
  | .initWrite _ _ _ rest => rest.length + 2
  | .initReadback _ => 1
  | .refresh => 1
  | .setfilt _ _ i => 8 - i.val
  | .getfltHi => 2
  | .getfltLo _ => 1

end Sys2Proof.Machine
end

