-- ==== Sys2Proof/Machine/Flags.lean ====
section
/-! DEFINITION. The error accumulator `ERR`: its two kinds, how an error is recorded (the
block's only counterpart of taking an exception, R124) and how the record is cleared (the
counterpart of returning from one, R127). -/

namespace Sys2Proof.Machine

/-- COMM, the communication error, and INTEG, the integrity error (R13, R120). -/
inductive ErrKind where
  | comm | integ
  deriving DecidableEq, Repr

/-- The bit of `ERR` that an error kind has in the instance: the parameter of R6's last row
(log 20).  The numbers of R13 and R120 are those of `p.commBit = 0`, D4's recommendation. -/
def ErrKind.position (p : Params) : ErrKind → Fin 2
  | .comm => p.commBit
  | .integ => 1 - p.commBit

/-- The mask value of an error kind: its bit alone (R120). -/
def ErrKind.mask (p : Params) (k : ErrKind) : BitVec 2 := BitVec.twoPow 2 (k.position p)

/-- `ERR <- ERR | kind` where the cause holds; nothing else changes and the sequence goes on
(R124, R125). -/
def recordError (k : ErrKind) (cause : Bool) (s : State) : State :=
  { s with err := if cause then s.err ||| k.mask s.params else s.err }

/-- `ERR <- 0b00`, the first action of every logical operation (R100, R127). -/
def clearErrors (s : State) : State := { s with err := 0 }

/-- Whether the value `e` of `ERR` says that the kind was recorded (R13). -/
def ErrKind.isSet (p : Params) (k : ErrKind) (e : BitVec 2) : Bool := e.getLsbD (k.position p)

/-- The verifier's comparison: the recomputed checksum against the low five bits received
(R88). -/
def frameValid (f : Frame) : Bool := crc5 (frameWord f) == f.b2.extractLsb' 0 5

end Sys2Proof.Machine
end

