-- ==== Sys2Proof/Machine/Ops.lean ====
section
/-! DEFINITION. The named operations over the registers and the ports. -/

namespace Sys2Proof.Machine

/-- The block accepts a command: `PHASE == IDLE` and no operation in progress (R80). -/
def State.ready (s : State) : Bool :=
  match s.phase, s.op with
  | .idle, none => true
  | _, _ => false

/-- The `n`-th answer the transport will give: the settled ones first, then free ones
(R36, U1, U2). -/
def State.answerAt (s : State) (n : Nat) : Answer :=
  (s.answers[n]?).getD (Config.freeAnswer (s.draws + (n - s.answers.length)))

/-- The transport port after `n` answers have been taken. -/
def State.dropAnswers (s : State) (n : Nat) : State :=
  { s with answers := s.answers.drop n, draws := s.draws + (n - s.answers.length) }

/-- The outstanding call takes the next answer: on `silent` it stays outstanding and no
register changes (R44); when it returns, `k` goes on with what it returned. -/
def awaitReply (k : Reply → State → State) (s : State) : State :=
  match s.answerAt 0 with
  | .silent => s.dropAnswers 1
  | .reply r => k r (s.dropAnswers 1)

/-- `PHASE <- ph` (R17). -/
def enter (ph : Phase) (s : State) : State := { s with phase := ph }

/-- A transport call is made and the sequencer enters the phase that lasts until it returns
(R17, R33 to R35). -/
def issue (c : Call) (ph : Phase) (s : State) : State :=
  { s with phase := ph, calls := s.calls ++ [c] }

/-- BUILD: all three bytes of the buffer and the length are written (R82 to R84). -/
def buildFrame (x : Txn) (s : State) : State :=
  { s with buf := builtFrame s.crcEn x, len := frameLen s.crcEn }

/-- `T_Exchange(P_CHIPADDR, BUF[0..LEN-1], LEN)` (R34, R86). -/
def exchangeCall (s : State) : Call := .exchange s.params.chipAddr (sentBytes s.buf s.len)

/-- The received bytes go into the buffer, on ok and on fail alike (R34, R86). -/
def receive (rx : Frame) (s : State) : State := { s with buf := exchanged s.buf s.len rx }

/-- VERIFY: in checked mode a checksum mismatch records INTEG (R88). -/
def verifyFrame (s : State) : State := recordError .integ (s.crcEn && !frameValid s.buf) s

/-- UPDATE: `DI` from byte 0, and on a write `WB` from byte 1 (R89). -/
def snapshot (d : Dir) (s : State) : State :=
  { s with
    di := s.buf.b0
    wb := match d with
      | .rd => s.wb
      | .wr => s.buf.b1 }

/-- The next transaction of the command in progress is to be built (R17, R100). -/
def goTo (p : Progress) (s : State) : State := { s with phase := .build, op := some p }

/-- The command completes with response `r` and the block is idle (R80, R93). -/
def complete (r : Response) (s : State) : State :=
  { s with phase := .idle, op := none, response := r }

/-- The requester presents its next word; the word is then no longer to be presented
(R80). -/
def takeRequest (s : State) : Option (Request × State) :=
  match s.requests with
  | [] => none
  | r :: rest => some (r, { s with requests := rest })

/-- A word that does not decode is not accepted (R57). -/
def decodeRefusal : DecodeError → Refusal
  | .reservedOp op => .reservedOp op

/-- What the requester can observe besides whether the block is idle (R20). -/
structure Visible where
  err : BitVec 2
  di : Byte
  wb : Byte
  response : Response
  deriving DecidableEq, Repr

/-- The requester's view: the outputs while the block is idle, nothing while a command is in
progress (R20, D20). -/
def State.visible (s : State) : Option Visible :=
  if s.ready then some ⟨s.err, s.di, s.wb, s.response⟩ else none

/-- `s` with the block idle and `r` the next word its requester presents. -/
def presentNext (r : Request) (s : State) : State :=
  { s with phase := .idle, op := none, requests := r :: s.requests }

end Sys2Proof.Machine
end

