-- ==== Sys2Proof/Machine/Sequencer.lean ====
section
/-! DEFINITION. The protocol sequencer: the phases of one transaction (R17, R81), what a
command does when one of its transactions is complete, and how the block runs on until it
is idle or a transport call does not return. -/

namespace Sys2Proof.Machine

/-- BUILD (R82 to R84), and then the acquire call is made (R85). -/
def buildPhase (s : State) : State :=
  match s.phase, s.op with
  | .build, some p => issue .acquire .acquire (buildFrame (p.txn s.params) s)
  | _, _ => s

/-- The acquire call has returned with `r`: COMM is recorded if it failed, and the exchange
is made whatever it returned (R85). -/
def acquired (r : Reply) (s : State) : State :=
  issue (exchangeCall s) .exchange (recordError .comm (!r.ok) s)

/-- The exchange has returned with `r`: the received bytes enter the buffer, COMM is recorded
if it failed, and the release is made whatever it returned (R86). -/
def received (r : Reply) (s : State) : State :=
  issue .release .release (recordError .comm (!r.ok) (receive r.rx s))

/-- The release has returned with `r` (R87). -/
def released (r : Reply) (s : State) : State :=
  enter .verify (recordError .comm (!r.ok) s)

/-- ACQUIRE (R85): lasts until the acquire call returns. -/
def acquirePhase (s : State) : State :=
  match s.phase with
  | .acquire => awaitReply acquired s
  | _ => s

/-- EXCHANGE (R86): lasts until the exchange returns. -/
def exchangePhase (s : State) : State :=
  match s.phase with
  | .exchange => awaitReply received s
  | _ => s

/-- RELEASE (R87): lasts until the release call returns. -/
def releasePhase (s : State) : State :=
  match s.phase with
  | .release => awaitReply released s
  | _ => s

/-- VERIFY (R88). -/
def verifyPhase (s : State) : State :=
  match s.phase with
  | .verify => enter .update (verifyFrame s)
  | _ => s

/-- INIT goes on with its list of writes, or reads back when none is left (R101). -/
def initNext (status : Byte) (ws : List (Byte × Byte)) (s : State) : State :=
  match ws with
  | [] => goTo (.initReadback status) s
  | (a, v) :: rest => goTo (.initWrite status a v rest) s

/-- INIT's branch on the status byte, and nothing else (R101, R150). -/
def initBranch (status : Byte) (s : State) : State :=
  initNext status (if takesWriteBranch s.params status then s.params.initWrites else []) s

/-- INIT's read-back compare of all 8 bits, and its response (R101, R106). -/
def initFinish (e : Byte) (s : State) : State :=
  let t := recordError .comm (e != s.params.faultEnExpect) s
  complete (.errMask t.err) t

/-- SETFILT goes on with the next set bit of the mask, or completes with no response
(R103, R106). -/
def setfiltNext (m v : Byte) (n : Nat) (s : State) : State :=
  match nextChannel m n with
  | some j => goTo (.setfilt m v j) s
  | none => complete .none s

/-- What a command does when its transaction in progress is complete; `BUF[1]` is the value
`Transact` returns (R81, R90, R91, R101 to R105). -/
def advance (p : Progress) (s : State) : State :=
  match p with
  | .rdreg _ => complete (.byte s.buf.b1) s
  | .wrreg _ _ => complete .none s
  | .initStatus => initBranch s.buf.b1 s
  | .initWrite st _ _ rest => initNext st rest s
  | .initReadback _ => initFinish s.buf.b1 s
  | .refresh => complete (.errMask s.err) s
  | .setfilt m v i => setfiltNext m v (i.val + 1) s
  | .getfltHi => goTo (.getfltLo s.buf.b1) s
  | .getfltLo hi => complete (.faults (hi ++ s.buf.b1)) s

/-- UPDATE (R89), and then the command goes on or completes. -/
def updatePhase (s : State) : State :=
  match s.phase, s.op with
  | .update, some p => advance p (snapshot (p.txn s.params).dir s)
  | _, _ => s

/-- The transaction in progress, from the phase it is in, through UPDATE or up to a call
that does not return (R17: "in the order of the table, unconditionally"). -/
def runTxn (s : State) : State :=
  updatePhase (verifyPhase (releasePhase (exchangePhase (acquirePhase (buildPhase s)))))

/-- At most `n` transactions, each complete before the next is built (R100). -/
def runTxns : Nat → State → State
  | 0, s => s
  | n + 1, s =>
    let t := runTxn s
    match t.phase with
    | .build => runTxns n t
    | _ => t

/-- The block runs on until it is idle or a transport call does not return (R41, R44). -/
def runBlock (s : State) : State :=
  match s.op with
  | none => s
  | some p => runTxns (p.txnsLeft s.params) s

/-- A command is presented: an idle block accepts it, after its first action `entry` begins
at `p`, and runs it (R80); a block with a command in progress refuses it (R80, D11). -/
def accept (p : Progress) (entry : State → State) (s : State) :
    Host.Outcome State Fault Refusal :=
  if s.ready then .next (runBlock (goTo p (entry s))) else .refused .busy

end Sys2Proof.Machine
end

