-- ==== Sys2Proof/Machine/Operations.lean ====
section
/-! DEFINITION. The four logical operations (42_operations.md).  Each clears `ERR` first
(R100); what follows its transactions stands in `advance`. -/

namespace Sys2Proof.Machine

/-- INIT (R101). -/
def execInit (s : State) : Host.Outcome State Fault Refusal := accept .initStatus clearErrors s

/-- REFRESH (R102). -/
def execRefresh (s : State) : Host.Outcome State Fault Refusal := accept .refresh clearErrors s

/-- SETFILT m, v (R103).  An empty mask is outside the contract and refused, with `ERR`
as it was (R103, D15). -/
def execSetfilt (m v : Byte) (s : State) : Host.Outcome State Fault Refusal :=
  if s.ready then
    match nextChannel m 0 with
    | some i => accept (.setfilt m v i) clearErrors s
    | none => .refused .emptyMask
  else .refused .busy

/-- GETFLT (R105). -/
def execGetflt (s : State) : Host.Outcome State Fault Refusal := accept .getfltHi clearErrors s

end Sys2Proof.Machine
end

