-- ==== Sys2Proof/Machine/Transaction.lean ====
section
/-! DEFINITION. The two primitive commands (41_transaction.md section 3). -/

namespace Sys2Proof.Machine

/-- RDREG a (R90): `resp <- Transact(RD, a, 0x00)`.  `ERR` is not cleared at entry. -/
def execRdreg (a : Byte) (s : State) : Host.Outcome State Fault Refusal :=
  accept (.rdreg a) id s

/-- WRREG a, d (R91): `Transact(WR, a, d)`, no response.  `ERR` is not cleared at entry. -/
def execWrreg (a d : Byte) (s : State) : Host.Outcome State Fault Refusal :=
  accept (.wrreg a d) id s

end Sys2Proof.Machine
end

