-- ==== Sys2Proof/Machine/Step.lean ====
section
/-! DEFINITION. One step of the machine. -/

namespace Sys2Proof.Machine

/-- One step.  An idle block takes the next word its requester presents, decodes it and runs
it; with none presented it waits (R80, R140).  A block with a command in progress polls the
outstanding transport call and runs on (R41, R44). -/
def step (s : State) : Host.Outcome State Fault Refusal :=
  if s.ready then
    match takeRequest s with
    | none => .next s
    | some (r, t) =>
      match decode r with
      | .ok i => exec i t
      | .error e => .refused (decodeRefusal e)
  else .next (runBlock s)

/-- `s` with an opcode-table word as the next word its requester presents, the block idle. -/
def State.withFetchWord (s : State) (nbits w : Nat) : State :=
  match tableRequest nbits w with
  | none => s
  | some r => presentNext r s

end Sys2Proof.Machine
end

