-- ==== Sys2Proof/WellFormed.lean ====
section
/-! DEFINITION. The checks the spec puts on an instruction's operands and on an instance's
parameters. -/

namespace Sys2Proof

/-- An instruction within the contract of its operation.  SETFILT takes "a bitmask of one or
more of 8 input channels" (R103); every other operand value is legal (R38, R58). -/
def Instr.wellFormed : Instr → Bool
  | .crc5 _ => true
  | .rdreg _ => true
  | .wrreg _ _ => true
  | .init => true
  | .refresh => true
  | .setfilt m _ => m != 0
  | .getflt => true

/-- Bit 7 of an address is the place of the direction marker (R83). -/
def markerClear (a : Byte) : Bool := !a.getLsbD 7

/-- Every address parameter has bit 7 clear (R7, first constraint); INIT's write addresses
are address parameters too. -/
def Params.addressesClear (p : Params) : Bool :=
  markerClear p.addrStatus && markerClear p.addrFaultEn && markerClear p.addrNop &&
  markerClear p.addrFilterBase && markerClear p.addrFaultHi && markerClear p.addrFaultLo &&
  p.initWrites.all (fun w => markerClear w.1)

/-- No filter address carries into bit 7: P_ADDR_FILTER_BASE + 14 <= 0x7F (R7, second
constraint). -/
def Params.filtersInRange (p : Params) : Bool := p.addrFilterBase.toNat + 14 ≤ 0x7F

/-- The constraints of R7.  The requester must meet them; the block checks neither. -/
def Params.wellFormed (p : Params) : Bool := p.addressesClear && p.filtersInRange

end Sys2Proof
end

