-- ==== Sys2Proof/Safety.lean ====
section
/-! DEFINITION. The terms the claims use: the states a run stays in, the order of the link,
and the spec's procedures written a second time, straight from their rules, to hold the
sequencer against. -/

namespace Sys2Proof.Machine

/-! ### Safe states -/

/-- The phases in which the block waits for a transport call to return (R17, R44). -/
def Phase.awaits : Phase → Bool
  | .acquire => true
  | .exchange => true
  | .release => true
  | .idle => false
  | .build => false
  | .verify => false
  | .update => false

/-- What holds between two steps: the sequencer is idle exactly when no command is in
progress, and else waits for a call; the mode is the parameter's (R12); while a command is
in progress `LEN` is the mode's (R16), the frame still to be sent carries its checksum
(R24), and SETFILT is at a channel of its mask (R103). -/
structure State.Inv (s : State) : Prop where
  idle_iff : s.phase = .idle ↔ s.op = none
  settled : s.phase = .idle ∨ s.phase.awaits = true
  mode : s.crcEn = s.params.crcEn
  length : s.phase.awaits = true → s.len = if s.crcEn then 3 else 2
  tail : s.phase = .acquire ∨ s.phase = .exchange →
    s.buf.b2 = if s.crcEn then (crc5 (s.buf.b0 ++ s.buf.b1 ++ (0x00 : Byte))).setWidth 8 else 0x00
  channel : ∀ m v i, s.op = some (.setfilt m v i) → m.getLsbD i.val = true

/-- The order of calls on the link, as an automaton over the phase of the last call: acquire,
exchange, release, and acquire again (R33 to R35, R41 (b), R130). -/
def linkStep : Phase → Call → Option Phase
  | .idle, .acquire => some .acquire
  | .release, .acquire => some .acquire
  | .acquire, .exchange _ _ => some .exchange
  | .exchange, .release => some .release
  | _, _ => none

/-- The calls made so far keep the order of the link, and the sequencer is at the last of
them, or idle after a release. -/
def State.LinkInv (s : State) : Prop :=
  ∃ ph, s.calls.foldlM linkStep .idle = some ph ∧
    (s.phase = ph ∨ s.phase = .idle ∧ ph = .release)

/-- A frame handed to the transport (R24, R50, R51): two bytes in unchecked mode; in checked
mode three, the third the checksum of the first two. -/
def sentFrameOk (crcEn : Bool) (tx : List Byte) : Prop :=
  ∃ b0 b1, tx = if crcEn then [b0, b1, (crc5 (b0 ++ b1 ++ (0x00 : Byte))).setWidth 8] else [b0, b1]

/-- Every exchange made so far passed P_CHIPADDR (R34) and a frame of the instance's mode. -/
def State.WireInv (s : State) : Prop :=
  ∀ chip tx, .exchange chip tx ∈ s.calls → chip = s.params.chipAddr ∧ sentFrameOk s.params.crcEn tx

/-! ### The spec's procedures, a second time -/

/-- What the transport answers to the three calls of one transaction, in order. -/
structure TxnReplies where
  acquire : Reply
  exchange : Reply
  release : Reply
  deriving DecidableEq, Repr, Inhabited

/-- The replies to a sequence of transactions, in the order of the calls. -/
def repliesOf (qs : List TxnReplies) : List Reply :=
  qs.flatMap (fun q => [q.acquire, q.exchange, q.release])

/-- The next answers at the transport port of `s` are the returns `rs`, none of them
silent. -/
def State.willReply (s : State) (rs : List Reply) : Prop :=
  (List.range rs.length).map s.answerAt = rs.map .reply

/-- `Transact(op, a, d)` as the pseudocode of R81 gives it, for a transport that answers
`q`. -/
def Spec.transact (x : Txn) (q : TxnReplies) (s : State) : State :=
  let b0 : Byte := if x.dir = .wr then x.addr ||| 0x80 else x.addr
  let b1 : Byte := if x.dir = .wr then x.data else 0x00
  let b2 : Byte := (crc5 (b0 ++ b1 ++ (0x00 : Byte))).setWidth 8
  let rx : Frame := if s.crcEn then q.exchange.rx else ⟨q.exchange.rx.b0, q.exchange.rx.b1, 0x00⟩
  let comm : BitVec 2 := if q.acquire.ok && q.exchange.ok && q.release.ok then 0b00 else ErrKind.mask s.params .comm
  let integ : BitVec 2 :=
    if s.crcEn = true ∧ crc5 (rx.b0 ++ rx.b1 ++ rx.b2) ≠ rx.b2.extractLsb' 0 5 then
      ErrKind.mask s.params .integ else 0b00
  { s with
    buf := rx
    len := if s.crcEn then 3 else 2
    err := s.err ||| comm ||| integ
    di := rx.b0
    wb := if x.dir = .wr then rx.b1 else s.wb
    calls := s.calls ++
      [.acquire, .exchange s.params.chipAddr (if s.crcEn then [b0, b1, b2] else [b0, b1]), .release] }

/-- Transactions one after another, each complete before the next (R100). -/
def Spec.transacts (xs : List (Txn × TxnReplies)) (s : State) : State :=
  xs.foldl (fun t x => Spec.transact x.1 x.2 t) s

/-- The filter writes of `SETFILT m, v`, ascending (R103, R104). -/
def Spec.filterWrites (p : Params) (m v : Byte) : List Txn :=
  ((List.range 8).filter m.getLsbD).map
    (fun i => ⟨.wr, BitVec.ofNat 8 (p.addrFilterBase.toNat + 2 * i), v⟩)

/-- INIT's write list on status byte `st`: P_INIT_WRITES when the power-on-reset flag agrees
with the polarity, else nothing (R101). -/
def Spec.initWrites (p : Params) (st : Byte) : List Txn :=
  if ((st &&& p.porMask) ≠ 0x00 ↔ p.initWriteIfPor = true) then
    p.initWrites.map (fun w => ⟨.wr, w.1, w.2⟩)
  else []

/-- The transactions a command can make at most (R90, R91, R101 to R103, R105). -/
def Spec.maxTxns (p : Params) : Instr → Nat
  | .crc5 _ => 0
  | .rdreg _ => 1
  | .wrreg _ _ => 1
  | .init => p.initWrites.length + 2
  | .refresh => 1
  | .setfilt _ _ => 8
  | .getflt => 2

/-- The bits of the command word an operation looks at (R54); the rest it ignores. -/
def Spec.careMask : Instr → BitVec 19
  | .crc5 _ => 0x00000
  | .rdreg _ => 0x7FF00
  | .wrreg _ _ => 0x7FFFF
  | .init => 0x70000
  | .refresh => 0x70000
  | .setfilt _ _ => 0x7FFFF
  | .getflt => 0x70000

/-- The instructions presented on the command port: all but CRC5 (R58). -/
def Spec.isCommand : Instr → Bool
  | .crc5 _ => false
  | .rdreg _ => true
  | .wrreg _ _ => true
  | .init => true
  | .refresh => true
  | .setfilt _ _ => true
  | .getflt => true

/-- The commands in progress that only read remote registers (R90, R105). -/
def Spec.onlyReads : Progress → Bool
  | .rdreg _ => true
  | .getfltHi => true
  | .getfltLo _ => true
  | .wrreg _ _ => false
  | .initStatus => false
  | .initWrite _ _ _ _ => false
  | .initReadback _ => false
  | .refresh => false
  | .setfilt _ _ _ => false

/-! ### The checksum, in the forms of R73, R74, R76 and R78 -/

/-- The product of `q`, read as a polynomial over GF(2), and P = x^5 + x^4 + x^2 + 1,
accumulated over the low `n` coefficients of `q` (R73). -/
def Spec.mulPoly (q : BitVec 19) : Nat → BitVec 24
  | 0 => 0
  | n + 1 => Spec.mulPoly q n ^^^ (if q.getLsbD n then (0b110101 : BitVec 24) <<< n else 0)

/-- The table S[5..23] of R74, lowest index first. -/
def Spec.table : List (BitVec 5) :=
  [0x15, 0x1F, 0x0B, 0x16, 0x19, 0x07, 0x0E, 0x1C, 0x0D, 0x1A, 0x01, 0x02, 0x04, 0x08, 0x10,
   0x15, 0x1F, 0x0B, 0x16]

/-- The sum of R74: S[k] over the bits k of `w` that are set, from bit `k` up. -/
def Spec.tableSum (w : BitVec 24) : Nat → List (BitVec 5) → BitVec 5
  | _, [] => 0
  | k, t :: ts => (if w.getLsbD k then t else 0) ^^^ Spec.tableSum w (k + 1) ts

/-- The generic 5-bit routine of R78 over bits `n-1` down to 0 of the 19-bit message. -/
def Spec.serial (m : BitVec 19) : Nat → BitVec 5 → BitVec 5
  | 0, r => r
  | n + 1, r =>
    Spec.serial m n (if m.getLsbD n != r.getLsbD 4 then (r <<< 1) ^^^ 0b10101 else r <<< 1)

/-- "A received 24-bit frame `f` passes the verifier's comparison" (R75, R88). -/
def Spec.passes (f : BitVec 24) : Prop := crc5 f = f.extractLsb' 0 5

/-- How many bits of `e` are set. -/
def Spec.weight (e : BitVec 24) : Nat := ((List.range 24).filter e.getLsbD).length

end Sys2Proof.Machine
end

