-- ==== Sys2Proof/Certificates/Slice0/Obligations.lean ====
section
/-! DEFINITION. The statements for the provers.  In all of them `s.ready` is "PHASE is IDLE and
no operation is in progress" (R80), and `s.willReply rs` says that the transport's next answers
return from the calls with `rs`. -/

open Sys2Proof Sys2Proof.Machine

/-! ### The checksum engine -/

/-- R58: the checksum port answers `CRC_OUT = CRC5(CRC_IN)`, in every state of the block, busy
or idle, touching nothing else, and CRC_IN[4:0] has no effect. -/
def Obligations.ChecksumPortAnswersCrc5 : Prop :=
  ∀ (w : BitVec 24) (c : BitVec 5) (s : State),
    exec (.crc5 w) s = .next { s with crcOut := crc5 w } ∧
    exec (.crc5 (w.extractLsb' 5 19 ++ c)) s = .next { s with crcOut := crc5 w }

/-- R71: the low five bits of the input do not affect the result.  The second clause, that
flipping any one of the other bits changes it, is not R71's but the spec's own derivation R76 (a)
("[derived: from rule R73 and rule R74]"; the source's property S3). -/
def Obligations.Crc5IgnoresOnlyTheLowFiveBits : Prop :=
  ∀ w : BitVec 24,
    (∀ c : BitVec 5, crc5 ((w &&& 0xFFFFE0) ||| c.setWidth 24) = crc5 w) ∧
    ∀ k, 5 ≤ k → k < 24 → crc5 (w ^^^ ((1 : BitVec 24) <<< k)) ≠ crc5 w

/-- The spec's own derivation R73 ("[derived: from rule R70]"): the stepwise process computes
the remainder of the marked word on division by P over GF(2), and nothing else is one. -/
def Obligations.Crc5IsThePolynomialRemainder : Prop :=
  ∀ (w : BitVec 24) (r : BitVec 5),
    (∃ q : BitVec 19,
      (w &&& 0xFFFFE0) ||| 0b00111 = Spec.mulPoly q 19 ^^^ r.setWidth 24) ↔ r = crc5 w

/-- The spec's own derivation R74 ("[derived: from rule R73]"): the table form. -/
def Obligations.Crc5IsTheTableSum : Prop :=
  ∀ w : BitVec 24, crc5 w = 0b00111 ^^^ Spec.tableSum w 5 Spec.table

/-- The spec's own derivation R74: CRC5 is affine. -/
def Obligations.Crc5OfXorIsAffine : Prop :=
  ∀ a b : BitVec 24, crc5 (a ^^^ b) = crc5 a ^^^ crc5 b ^^^ 0b00111

/-- The spec's own derivation R78 ("[derived: from rule R73]"): CRC5 is the generic routine with
initial value 0 and final XOR 0x07, and the same routine preloaded with 0x07 disagrees on every
payload. -/
def Obligations.Crc5IsTheSerialRoutine : Prop :=
  (∀ w : BitVec 24, crc5 w = Spec.serial (w.extractLsb' 5 19) 19 0 ^^^ 0b00111) ∧
  ∀ m : BitVec 19, Spec.serial m 19 0x07 ≠ Spec.serial m 19 0 ^^^ 0b00111

/-- The spec's own derivation R76 (a), (b) ("[derived: from rule R73 and rule R74]"): an error
pattern of odd weight never passes the verifier. -/
def Obligations.OddErrorsAreDetected : Prop :=
  ∀ f e : BitVec 24, Spec.passes f → Spec.weight e % 2 = 1 → ¬ Spec.passes (f ^^^ e)

/-- The spec's own derivation R76 (c): a two-bit error passes exactly when the two bits are 15
positions apart. -/
def Obligations.TwoBitErrorsPassOnlyAtDistance15 : Prop :=
  ∀ f : BitVec 24, Spec.passes f → ∀ j k, j < k → k < 24 →
    (Spec.passes (f ^^^ ((1 : BitVec 24) <<< j) ^^^ ((1 : BitVec 24) <<< k)) ↔ k = j + 15)

/-- The source's round-trip property (95_test_vectors.md S2; the spec's own derivation R75): a
transport that hands the transmitted frame back unchanged never makes the block record an
integrity error. -/
def Obligations.EchoedFrameRaisesNoError : Prop :=
  ∀ (s : State) (a d : Byte) (q : TxnReplies), s.ready = true → s.willReply (repliesOf [q]) →
    q.acquire.ok = true → q.exchange.ok = true → q.release.ok = true →
    q.exchange.rx = ⟨a ||| 0x80, d, (crc5 ((a ||| 0x80) ++ d ++ (0x00 : Byte))).setWidth 8⟩ →
    ∃ t, exec (.wrreg a d) s = .next t ∧ t.err = s.err ∧ t.di = a ||| 0x80 ∧ t.wb = d

/-! ### Encodings -/

/-- R54, R56, R58: every instruction decodes from the word it encodes to; a command word that
decodes is the encoding of its instruction once the fields that operation ignores are zeroed;
exactly the operation codes 6 and 7 are refused; and every word of the checksum port is
CRC5. -/
def Obligations.DecodeAndEncodeAgree : Prop :=
  (∀ i, decode (encode i) = .ok i) ∧
  (∀ w i, decode (.cmd w) = .ok i → encode i = .cmd (w &&& Spec.careMask i)) ∧
  (∀ w e, decode (.cmd w) = .error e ↔
    (w.extractLsb' 16 3 = 6 ∨ w.extractLsb' 16 3 = 7) ∧ e = .reservedOp (w.extractLsb' 16 3)) ∧
  ∀ w i, decode (.crcIn w) = .ok i ↔ i = .crc5 w

/-- Command words written out in 95_test_vectors.md (T1 to T8, P4, P5, P6, P7) and 40_checksum.md
decode to the commands they stand for. -/
def Obligations.WrittenOutWordsDecode : Prop :=
  decode (.cmd 0b0000111111100000000) = .ok (.rdreg 0x7F) ∧
  decode (.cmd 0b0011001111011000000) = .ok (.wrreg 0x9E 0xC0) ∧
  decode (.cmd 0b0010001111011000000) = .ok (.wrreg 0x1E 0xC0) ∧
  decode (.cmd 0b0100000000000000000) = .ok .init ∧
  decode (.cmd 0b0110000000000000000) = .ok .refresh ∧
  decode (.cmd 0b1000010010100001000) = .ok (.setfilt 0x25 0x08) ∧
  decode (.cmd 0b1010000000000000000) = .ok .getflt ∧
  decode (.crcIn 0x9EC000) = .ok (.crc5 0x9EC000)

/-- R57: a command word with a reserved operation code at the command port is refused; SETFILT
with an empty mask is a legal encoding. -/
def Obligations.ReservedOperationCodesAreRefused : Prop :=
  (∀ (s : State) (w : BitVec 19) (rest : List Request), s.ready = true →
    s.requests = .cmd w :: rest → (w.extractLsb' 16 3 = 6 ∨ w.extractLsb' 16 3 = 7) →
    step s = .refused (.reservedOp (w.extractLsb' 16 3))) ∧
  ∀ v : Byte, decode (.cmd ((0b100 : BitVec 3) ++ (0x00 : Byte) ++ v)) = .ok (.setfilt 0x00 v)

/-- A step of an idle block runs the instruction its requester presents and takes the word off
the requester's list; with nothing presented it waits (R80, R140). -/
def Obligations.StepRunsThePresentedInstruction : Prop :=
  (∀ (s : State) (r : Request) (rest : List Request) (i : Instr), s.ready = true →
    s.requests = r :: rest → decode r = .ok i → step s = exec i { s with requests := rest }) ∧
  ∀ s : State, s.ready = true → s.requests = [] → step s = .next s

/-! ### The primitive commands -/

/-- R90: RDREG is OP 0b000 with its address in A and D ignored; on a transport that answers it is
`Transact(RD, a, 0x00)` (R81), its response is received byte 1, and nothing else changes. -/
def Obligations.RdregPerformsOneReadTransaction : Prop :=
  (∀ a d : Byte, decode (.cmd ((0b000 : BitVec 3) ++ a ++ d)) = .ok (.rdreg a)) ∧
  ∀ (s : State) (a : Byte) (q : TxnReplies), s.ready = true → s.willReply (repliesOf [q]) →
    exec (.rdreg a) s =
      .next ({ Spec.transact ⟨.rd, a, 0x00⟩ q s with
        response := .byte q.exchange.rx.b1 }.dropAnswers 3)

/-- R91: WRREG is OP 0b001 with its address in A and its data in D; on a transport that answers
it is `Transact(WR, a, d)` (R81), with no response, and nothing else changes. -/
def Obligations.WrregPerformsOneWriteTransaction : Prop :=
  (∀ a d : Byte, decode (.cmd ((0b001 : BitVec 3) ++ a ++ d)) = .ok (.wrreg a d)) ∧
  ∀ (s : State) (a d : Byte) (q : TxnReplies), s.ready = true → s.willReply (repliesOf [q]) →
    exec (.wrreg a d) s =
      .next ({ Spec.transact ⟨.wr, a, d⟩ q s with response := .none }.dropAnswers 3)

/-- R83: the marker is ORed in, not inserted: WRREG to `a` and to `a | 0x80` do the same and
send byte 0 with bit 7 set; RDREG sends `a` whole, bit 7 included, with data byte 0, and is
still a read: it leaves WB and responds with byte 1. -/
def Obligations.DirectionMarkerIsOredIn : Prop :=
  ∀ (s : State) (a d : Byte) (q : TxnReplies), s.ready = true → s.willReply (repliesOf [q]) →
    (∃ t tx, exec (.wrreg a d) s = .next t ∧ exec (.wrreg (a ||| 0x80) d) s = .next t ∧
      (a ||| 0x80).getLsbD 7 = true ∧
      t.calls = s.calls ++
        [.acquire, .exchange s.params.chipAddr ((a ||| 0x80) :: d :: tx), .release]) ∧
    ∃ u tx, exec (.rdreg a) s = .next u ∧ u.wb = s.wb ∧ u.response = .byte q.exchange.rx.b1 ∧
      u.calls = s.calls ++ [.acquire, .exchange s.params.chipAddr (a :: 0x00 :: tx), .release]

/-- R88: INTEG depends only on the received bytes, never on the result flags; so do the
snapshots and the response (R89, R90). -/
def Obligations.ResultFlagsReachOnlyComm : Prop :=
  ∀ (s : State) (i : Instr) (q q' : TxnReplies) (t t' : State),
    ((∃ a, i = .rdreg a) ∨ ∃ a d, i = .wrreg a d) → q.exchange.rx = q'.exchange.rx →
    exec i { s with answers := (repliesOf [q]).map .reply } = .next t →
    exec i { s with answers := (repliesOf [q']).map .reply } = .next t' →
    ErrKind.isSet s.params .integ t.err = ErrKind.isSet s.params .integ t'.err ∧ t.di = t'.di ∧ t.wb = t'.wb ∧
      t.response = t'.response ∧ t.calls = t'.calls

/-- R15, R89: a command that only reads leaves WB alone, whatever the transport does, and also
when it goes on after a stall. -/
def Obligations.ReadCommandsKeepWireBreak : Prop :=
  (∀ (i : Instr) (s t : State), ((∃ a, i = .rdreg a) ∨ i = .getflt) → exec i s = .next t →
    t.wb = s.wb) ∧
  ∀ (p : Progress) (s t : State), s.op = some p → Spec.onlyReads p = true → step s = .next t →
    t.wb = s.wb

/-! ### The logical operations -/

/-- R102: REFRESH is OP 0b011 with no operand; it clears ERR, makes one write transaction, and
responds with ERR. -/
def Obligations.RefreshPerformsTheNoOpWrite : Prop :=
  (∀ a d : Byte, decode (.cmd ((0b011 : BitVec 3) ++ a ++ d)) = .ok .refresh) ∧
  ∀ (s : State) (q : TxnReplies), s.ready = true → s.willReply (repliesOf [q]) →
    let t := Spec.transact ⟨.wr, s.params.addrNop, s.params.nopData⟩ q { s with err := 0b00 }
    exec .refresh s = .next ({ t with response := .errMask t.err }.dropAnswers 3)

/-- R105: GETFLT is OP 0b101 with no operand; it clears ERR, reads the two fault registers,
high-order first, and responds with the 16-bit word whose upper byte is the first read. -/
def Obligations.GetfltCombinesTwoReads : Prop :=
  (∀ a d : Byte, decode (.cmd ((0b101 : BitVec 3) ++ a ++ d)) = .ok .getflt) ∧
  ∀ (s : State) (q1 q2 : TxnReplies), s.ready = true → s.willReply (repliesOf [q1, q2]) →
    let t := Spec.transacts
      [(⟨.rd, s.params.addrFaultHi, 0x00⟩, q1), (⟨.rd, s.params.addrFaultLo, 0x00⟩, q2)]
      { s with err := 0b00 }
    exec .getflt s =
      .next ({ t with response := .faults (q1.exchange.rx.b1 ++ q2.exchange.rx.b1) }.dropAnswers 6)

/-- R103: SETFILT is OP 0b100 with its mask in A and its value in D; with a mask that is not empty
it clears ERR and makes one write per set bit of the mask to base + 2*index (R104), in ascending
order (the spec's decision D15), with no response; with an empty mask it is refused (also D15). -/
def Obligations.SetfiltWritesEverySelectedChannel : Prop :=
  (∀ m v : Byte, decode (.cmd ((0b100 : BitVec 3) ++ m ++ v)) = .ok (.setfilt m v)) ∧
  (∀ (s : State) (v : Byte), s.ready = true → exec (.setfilt 0x00 v) s = .refused .emptyMask) ∧
  ∀ (s : State) (m v : Byte) (qs : List TxnReplies), s.ready = true → m ≠ 0x00 →
    qs.length = (Spec.filterWrites s.params m v).length → s.willReply (repliesOf qs) →
    exec (.setfilt m v) s =
      .next ({ Spec.transacts ((Spec.filterWrites s.params m v).zip qs) { s with err := 0b00 } with
        response := .none }.dropAnswers (3 * qs.length))

/-- R101: INIT is OP 0b010 with no operand; it clears ERR, reads the status register, makes P_INIT_WRITES in order when
the flag agrees with the polarity and none otherwise, reads the fault-enable register back,
records COMM on a mismatch, and responds with ERR; at both polarities. -/
def Obligations.InitConfiguresAndReadsBack : Prop :=
  (∀ a d : Byte, decode (.cmd ((0b010 : BitVec 3) ++ a ++ d)) = .ok .init) ∧
  ∀ (s : State) (q0 qe : TxnReplies) (qs : List TxnReplies), s.ready = true →
    qs.length = (Spec.initWrites s.params q0.exchange.rx.b1).length →
    s.willReply (repliesOf (q0 :: qs ++ [qe])) →
    let t := Spec.transacts
      ((⟨.rd, s.params.addrStatus, 0x00⟩, q0) ::
        (Spec.initWrites s.params q0.exchange.rx.b1).zip qs ++
        [(⟨.rd, s.params.addrFaultEn, 0x00⟩, qe)]) { s with err := 0b00 }
    let e := if qe.exchange.rx.b1 ≠ s.params.faultEnExpect then
      t.err ||| ErrKind.mask s.params .comm else t.err
    exec .init s =
      .next ({ t with err := e, response := .errMask e }.dropAnswers (3 * (qs.length + 2)))

/-- R150, at the polarity 1 of the spec's decision D12 (conflict C1): INIT on a chip whose
power-on-reset flag is clear writes nothing: two read frames on the link, WB untouched. -/
def Obligations.InitLeavesAConfiguredChipAlone : Prop :=
  ∀ (s : State) (q0 qe : TxnReplies), s.ready = true → s.params.initWriteIfPor = true →
    q0.exchange.rx.b1 &&& s.params.porMask = 0x00 → s.willReply (repliesOf [q0, qe]) →
    ∃ t tx tx', exec .init s = .next t ∧ t.ready = true ∧ t.wb = s.wb ∧
      t.calls = s.calls ++
        [.acquire, .exchange s.params.chipAddr (s.params.addrStatus :: 0x00 :: tx), .release,
         .acquire, .exchange s.params.chipAddr (s.params.addrFaultEn :: 0x00 :: tx'), .release]

/-- R104: FilterAddr(i) = base + 2*i at 8 bits; under the constraint of R7 it neither wraps nor
reaches bit 7. -/
def Obligations.FilterAddressesAreBasePlusTwiceTheIndex : Prop :=
  ∀ (p : Params) (i : Fin 8),
    (filterAddr p i).toNat = (p.addrFilterBase.toNat + 2 * i.val) % 256 ∧
    (p.filtersInRange = true →
      (filterAddr p i).toNat = p.addrFilterBase.toNat + 2 * i.val ∧
      (filterAddr p i).getLsbD 7 = false)

/-! ### Acceptance, refusal, stalls -/

/-- R80 (D11): a block with a command in progress refuses every command. -/
def Obligations.BusyBlockRefusesCommands : Prop :=
  ∀ (i : Instr) (s : State), Spec.isCommand i = true → s.ready = false →
    exec i s = .refused .busy

/-- Nothing else is refused and nothing faults (R124, R129): an instruction gives a next state
unless it is a command to a busy block or SETFILT with an empty mask. -/
def Obligations.OnlyBusyAndEmptyMaskAreRefused : Prop :=
  ∀ (i : Instr) (s : State),
    (∃ t, exec i s = .next t) ↔
      ¬ (Spec.isCommand i = true ∧ s.ready = false) ∧ ¬ ∃ v, i = .setfilt 0x00 v

/-- R44: while the outstanding call is not answered the block stays in its phase, changes no
register, accepts no command and completes nothing, for as long as that lasts. -/
def Obligations.UnansweredCallStallsTheBlock : Prop :=
  ∀ (n : Nat) (s : State), s.Inv → s.ready = false →
    (∀ k, k < n → s.answerAt k = .silent) →
    Sys2Proof.core.run n s = .next (s.dropAnswers n) ∧
    ∀ i, Spec.isCommand i = true → exec i (s.dropAnswers n) = .refused .busy

/-- R44, R92: a stall delays a command and changes nothing else.  A command whose transport
leaves one call unanswered for a step, and then goes on as before, ends that next step exactly
where it would have ended without the stall. -/
def Obligations.StallOnlyDelaysACommand : Prop :=
  ∀ (i : Instr) (s u : State) (pre post : List Answer), s.ready = true →
    s.answers = pre ++ .silent :: post → .silent ∉ pre → exec i s = .next u → u.ready = false →
    step u = exec i { s with answers := pre ++ post }

/-- R41, R92, R152: when the transport answers, every command within its contract completes in
the step that accepts it, whatever the result flags and bytes. -/
def Obligations.AnsweredCommandsComplete : Prop :=
  ∀ (i : Instr) (s : State), s.ready = true → i.wellFormed = true →
    (∀ k, k < 3 * Spec.maxTxns s.params i → s.answerAt k ≠ .silent) →
    ∃ t, exec i s = .next t ∧ t.ready = true

/-! ### The error accumulator -/

/-- R24 (2), R128: inside a command, and across RDREG and WRREG, no bit of ERR is cleared. -/
def Obligations.ErrorsOnlyAccumulate : Prop :=
  (∀ s t : State, s.ready = false → step s = .next t → s.err ||| t.err = t.err) ∧
  ∀ (i : Instr) (s t : State), ((∃ a, i = .rdreg a) ∨ ∃ a d, i = .wrreg a d) →
    exec i s = .next t → s.err ||| t.err = t.err

/-- R127: a bit of ERR is cleared only by the entry of a logical operation, and that entry forgets
every earlier error: what the operation does is the same whatever ERR held. -/
def Obligations.OnlyLogicalOperationsClearErrors : Prop :=
  (∀ s t : State, step s = .next t → s.err ||| t.err ≠ t.err →
    s.ready = true ∧ ∃ r rest i, s.requests = r :: rest ∧ decode r = .ok i ∧
      (i = .init ∨ i = .refresh ∨ (∃ m v, i = .setfilt m v) ∨ i = .getflt)) ∧
  ∀ (s : State) (e : BitVec 2) (m v : Byte),
    exec .init { s with err := e } = exec .init s ∧
    exec .refresh { s with err := e } = exec .refresh s ∧
    exec (.setfilt m v) { s with err := e } = exec (.setfilt m v) s ∧
    exec .getflt { s with err := e } = exec .getflt s

/-- R88, R121: in unchecked mode nothing sets INTEG. -/
def Obligations.UncheckedModeNeverSetsInteg : Prop :=
  (∀ (i : Instr) (s t : State), s.crcEn = false → exec i s = .next t →
    ErrKind.isSet s.params .integ t.err = true → ErrKind.isSet s.params .integ s.err = true) ∧
  ∀ s t : State, s.crcEn = false → step s = .next t →
    ErrKind.isSet s.params .integ t.err = true → ErrKind.isSet s.params .integ s.err = true

/-- R6's last row: the bit assignment of ERR is an argument.  At the assignment D4 recommends COMM
is 0b01 and INTEG 0b10, as the tables of R13 and R120 number them; at the other one the numbers are
exchanged; at either (DEDUCED, log 20: the positions differ) recording one kind sets
that kind, leaves the reading of the other as it was, and reads back by its name. -/
def Obligations.ErrorKindsHaveTheAssignedBits : Prop :=
  (∀ p : Params, p.commBit = 0 → ErrKind.mask p .comm = 0b01 ∧ ErrKind.mask p .integ = 0b10) ∧
  (∀ p : Params, p.commBit = 1 → ErrKind.mask p .comm = 0b10 ∧ ErrKind.mask p .integ = 0b01) ∧
  ∀ (k k' : ErrKind) (c : Bool) (s : State),
    ErrKind.isSet s.params k' (recordError k c s).err =
      (ErrKind.isSet s.params k' s.err || (decide (k = k') && c))

/-! ### State over time -/

/-- R12: the mode is the parameter's at reset and no step writes it, nor any parameter. -/
def Obligations.ModeIsImmutable : Prop :=
  State.reset.crcEn = State.reset.params.crcEn ∧
  ∀ s t : State, step s = .next t → t.crcEn = s.crcEn ∧ t.params = s.params

/-- The frame of the commands, stalled or complete: mode, parameters, the requester's list and
the checksum port are as before, and the earlier calls stand. -/
def Obligations.CommandsKeepModePortsAndHistory : Prop :=
  ∀ (i : Instr) (s t : State), Spec.isCommand i = true → exec i s = .next t →
    t.crcEn = s.crcEn ∧ t.params = s.params ∧ t.requests = s.requests ∧ t.crcOut = s.crcOut ∧
      ∃ new, t.calls = s.calls ++ new

/-- R93: the response of the last completed command is held until the next command
completes. -/
def Obligations.ResponseIsHeldUntilCompletion : Prop :=
  ∀ s t : State, s.Inv → step s = .next t → t.ready = false → t.response = s.response

/-- R140, R22: after reset the sequencer is idle, no operation is in progress, the mode is
P_CRC_EN and no transport call has been made; the block waits.  That no request is pending is
the model's choice (log 11). -/
def Obligations.ResetLeavesTheBlockWaiting : Prop :=
  State.reset.phase = .idle ∧ State.reset.op = none ∧ State.reset.ready = true ∧
  State.reset.crcEn = State.reset.params.crcEn ∧ State.reset.calls = [] ∧
  step State.reset = .next State.reset

/-- R17: the encoding of PHASE; the value 7 is no phase's. -/
def Obligations.PhaseCodesFollowTheTable : Prop :=
  Phase.idle.code = 0 ∧ Phase.build.code = 1 ∧ Phase.acquire.code = 2 ∧ Phase.exchange.code = 3 ∧
  Phase.release.code = 4 ∧ Phase.verify.code = 5 ∧ Phase.update.code = 6 ∧
  ∀ p : Phase, p.code ≠ 7

/-- R20: the requester sees ERR, DI, WB and the response of an idle block and nothing of a busy
one. -/
def Obligations.OnlyAnIdleBlockIsVisible : Prop :=
  (∀ s : State, s.phase = .idle → s.op = none →
    s.visible = some ⟨s.err, s.di, s.wb, s.response⟩) ∧
  ∀ s : State, s.phase ≠ .idle ∨ s.op ≠ none → s.visible = none

/-! ### Invariants -/

/-- Every step keeps the invariant: the sequencer is idle exactly when no command is in progress
and else waits for a call; the mode is the parameter's (R12); LEN is the mode's (R16); the frame
to be sent carries its checksum (R24); SETFILT is at a channel of its mask (R103). -/
def Obligations.EveryStepKeepsTheInvariant : Prop :=
  ∀ s t : State, s.Inv → step s = .next t → t.Inv

/-- Every step keeps the calls on the link in the order acquire, exchange, release (R33 to R35,
R41 (b), R130), whatever the transport answers. -/
def Obligations.EveryStepKeepsTheLinkOrder : Prop :=
  ∀ s t : State, s.Inv → s.LinkInv → step s = .next t → t.LinkInv

/-- Every frame ever handed to the transport is passed with P_CHIPADDR (R34), has the length of
the mode, and in checked mode ends with the checksum of its first two bytes (R24, R50). -/
def Obligations.EverySentFrameCarriesItsChecksum : Prop :=
  ∀ s t : State, s.Inv → s.WireInv → step s = .next t → t.WireInv

/-- The three invariants hold after reset. -/
def Obligations.ResetMeetsTheInvariants : Prop :=
  State.reset.Inv ∧ State.reset.LinkInv ∧ State.reset.WireInv
end

