-- ==== Sys2Proof/Laws/Checksum.lean ====
section
/-! SUPPORT. Small facts of the checksum engine's steps. -/

namespace Sys2Proof.Machine

/-- "After every step `reg[5] == 0`" (R70). -/
theorem condXor_top (r : BitVec 6) : (condXor r).getLsbD 5 = false := by
  revert r
  decide

theorem crcStep_top (r : BitVec 6) (b : Bool) : (crcStep r b).getLsbD 5 = false :=
  condXor_top _

/-- The register stays below the polynomial's degree through the whole loop. -/
theorem crcLoop_top (v : BitVec 24) : ∀ (n : Nat) (r : BitVec 6), r.getLsbD 5 = false →
    (crcLoop v n r).getLsbD 5 = false
  | 0, _, h => h
  | n + 1, _, _ => crcLoop_top v n _ (crcStep_top _ _)

/-- CRC5 sees a word only through its 19 payload bits (R71). -/
theorem crc5_congr {w w' : BitVec 24} (h : w.extractLsb' 5 19 = w'.extractLsb' 5 19) :
    crc5 w = crc5 w' := by
  simp only [crc5, markWord, h]

end Sys2Proof.Machine
end

