-- ==== Sys2Proof/Laws/Decode.lean ====
section
/-! SUPPORT. The fields of a command word are the ones it was made of (R54). -/

namespace Sys2Proof

theorem cmdWord_toNat (op : BitVec 3) (a d : Byte) :
    (cmdWord op a d).toNat = op.toNat * 65536 + a.toNat * 256 + d.toNat := by
  have h : (cmdWord op a d).toNat = (op.toNat <<< 8 ||| a.toNat) <<< 8 ||| d.toNat := by
    simp only [cmdWord]
    rw [BitVec.toNat_append, BitVec.toNat_append]
  rw [h, ← Nat.shiftLeft_add_eq_or_of_lt a.isLt, ← Nat.shiftLeft_add_eq_or_of_lt d.isLt]
  simp only [Nat.shiftLeft_eq]
  omega

@[simp] theorem cmdOp_cmdWord (op : BitVec 3) (a d : Byte) : cmdOp (cmdWord op a d) = op := by
  apply BitVec.eq_of_toNat_eq
  have ha := a.isLt
  have hd := d.isLt
  have hop := op.isLt
  simp only [cmdOp, BitVec.extractLsb'_toNat, cmdWord_toNat, Nat.shiftRight_eq_div_pow]
  omega

@[simp] theorem cmdA_cmdWord (op : BitVec 3) (a d : Byte) : cmdA (cmdWord op a d) = a := by
  apply BitVec.eq_of_toNat_eq
  have ha := a.isLt
  have hd := d.isLt
  simp only [cmdA, BitVec.extractLsb'_toNat, cmdWord_toNat, Nat.shiftRight_eq_div_pow]
  omega

@[simp] theorem cmdD_cmdWord (op : BitVec 3) (a d : Byte) : cmdD (cmdWord op a d) = d := by
  apply BitVec.eq_of_toNat_eq
  have hd := d.isLt
  simp only [cmdD, BitVec.extractLsb'_toNat, cmdWord_toNat, Nat.shiftRight_eq_div_pow]
  omega

end Sys2Proof
end

