-- ==== Sys2Proof/Laws/State.lean ====
section
/-! SUPPORT. One lemma for each field under each named update of State, true by `rfl`. -/

namespace Sys2Proof.Machine

variable (s : State)

@[simp] theorem enter_crcEn (ph : Phase) : (enter ph s).crcEn = s.crcEn := rfl
@[simp] theorem enter_err (ph : Phase) : (enter ph s).err = s.err := rfl
@[simp] theorem enter_di (ph : Phase) : (enter ph s).di = s.di := rfl
@[simp] theorem enter_wb (ph : Phase) : (enter ph s).wb = s.wb := rfl
@[simp] theorem enter_buf (ph : Phase) : (enter ph s).buf = s.buf := rfl
@[simp] theorem enter_len (ph : Phase) : (enter ph s).len = s.len := rfl
@[simp] theorem enter_phase (ph : Phase) : (enter ph s).phase = ph := rfl
@[simp] theorem enter_op (ph : Phase) : (enter ph s).op = s.op := rfl
@[simp] theorem enter_response (ph : Phase) : (enter ph s).response = s.response := rfl
@[simp] theorem enter_params (ph : Phase) : (enter ph s).params = s.params := rfl
@[simp] theorem enter_requests (ph : Phase) : (enter ph s).requests = s.requests := rfl
@[simp] theorem enter_answers (ph : Phase) : (enter ph s).answers = s.answers := rfl
@[simp] theorem enter_draws (ph : Phase) : (enter ph s).draws = s.draws := rfl
@[simp] theorem enter_calls (ph : Phase) : (enter ph s).calls = s.calls := rfl
@[simp] theorem enter_crcOut (ph : Phase) : (enter ph s).crcOut = s.crcOut := rfl

@[simp] theorem issue_crcEn (c : Call) (ph : Phase) : (issue c ph s).crcEn = s.crcEn := rfl
@[simp] theorem issue_err (c : Call) (ph : Phase) : (issue c ph s).err = s.err := rfl
@[simp] theorem issue_di (c : Call) (ph : Phase) : (issue c ph s).di = s.di := rfl
@[simp] theorem issue_wb (c : Call) (ph : Phase) : (issue c ph s).wb = s.wb := rfl
@[simp] theorem issue_buf (c : Call) (ph : Phase) : (issue c ph s).buf = s.buf := rfl
@[simp] theorem issue_len (c : Call) (ph : Phase) : (issue c ph s).len = s.len := rfl
@[simp] theorem issue_phase (c : Call) (ph : Phase) : (issue c ph s).phase = ph := rfl
@[simp] theorem issue_op (c : Call) (ph : Phase) : (issue c ph s).op = s.op := rfl
@[simp] theorem issue_response (c : Call) (ph : Phase) : (issue c ph s).response = s.response := rfl
@[simp] theorem issue_params (c : Call) (ph : Phase) : (issue c ph s).params = s.params := rfl
@[simp] theorem issue_requests (c : Call) (ph : Phase) : (issue c ph s).requests = s.requests := rfl
@[simp] theorem issue_answers (c : Call) (ph : Phase) : (issue c ph s).answers = s.answers := rfl
@[simp] theorem issue_draws (c : Call) (ph : Phase) : (issue c ph s).draws = s.draws := rfl
@[simp] theorem issue_calls (c : Call) (ph : Phase) : (issue c ph s).calls = s.calls ++ [c] := rfl
@[simp] theorem issue_crcOut (c : Call) (ph : Phase) : (issue c ph s).crcOut = s.crcOut := rfl

@[simp] theorem recordError_crcEn (k : ErrKind) (b : Bool) : (recordError k b s).crcEn = s.crcEn := rfl
@[simp] theorem recordError_err (k : ErrKind) (b : Bool) : (recordError k b s).err = if b then s.err ||| k.mask s.params else s.err := rfl
@[simp] theorem recordError_di (k : ErrKind) (b : Bool) : (recordError k b s).di = s.di := rfl
@[simp] theorem recordError_wb (k : ErrKind) (b : Bool) : (recordError k b s).wb = s.wb := rfl
@[simp] theorem recordError_buf (k : ErrKind) (b : Bool) : (recordError k b s).buf = s.buf := rfl
@[simp] theorem recordError_len (k : ErrKind) (b : Bool) : (recordError k b s).len = s.len := rfl
@[simp] theorem recordError_phase (k : ErrKind) (b : Bool) : (recordError k b s).phase = s.phase := rfl
@[simp] theorem recordError_op (k : ErrKind) (b : Bool) : (recordError k b s).op = s.op := rfl
@[simp] theorem recordError_response (k : ErrKind) (b : Bool) : (recordError k b s).response = s.response := rfl
@[simp] theorem recordError_params (k : ErrKind) (b : Bool) : (recordError k b s).params = s.params := rfl
@[simp] theorem recordError_requests (k : ErrKind) (b : Bool) : (recordError k b s).requests = s.requests := rfl
@[simp] theorem recordError_answers (k : ErrKind) (b : Bool) : (recordError k b s).answers = s.answers := rfl
@[simp] theorem recordError_draws (k : ErrKind) (b : Bool) : (recordError k b s).draws = s.draws := rfl
@[simp] theorem recordError_calls (k : ErrKind) (b : Bool) : (recordError k b s).calls = s.calls := rfl
@[simp] theorem recordError_crcOut (k : ErrKind) (b : Bool) : (recordError k b s).crcOut = s.crcOut := rfl

@[simp] theorem clearErrors_crcEn : (clearErrors s).crcEn = s.crcEn := rfl
@[simp] theorem clearErrors_err : (clearErrors s).err = 0 := rfl
@[simp] theorem clearErrors_di : (clearErrors s).di = s.di := rfl
@[simp] theorem clearErrors_wb : (clearErrors s).wb = s.wb := rfl
@[simp] theorem clearErrors_buf : (clearErrors s).buf = s.buf := rfl
@[simp] theorem clearErrors_len : (clearErrors s).len = s.len := rfl
@[simp] theorem clearErrors_phase : (clearErrors s).phase = s.phase := rfl
@[simp] theorem clearErrors_op : (clearErrors s).op = s.op := rfl
@[simp] theorem clearErrors_response : (clearErrors s).response = s.response := rfl
@[simp] theorem clearErrors_params : (clearErrors s).params = s.params := rfl
@[simp] theorem clearErrors_requests : (clearErrors s).requests = s.requests := rfl
@[simp] theorem clearErrors_answers : (clearErrors s).answers = s.answers := rfl
@[simp] theorem clearErrors_draws : (clearErrors s).draws = s.draws := rfl
@[simp] theorem clearErrors_calls : (clearErrors s).calls = s.calls := rfl
@[simp] theorem clearErrors_crcOut : (clearErrors s).crcOut = s.crcOut := rfl

@[simp] theorem buildFrame_crcEn (x : Txn) : (buildFrame x s).crcEn = s.crcEn := rfl
@[simp] theorem buildFrame_err (x : Txn) : (buildFrame x s).err = s.err := rfl
@[simp] theorem buildFrame_di (x : Txn) : (buildFrame x s).di = s.di := rfl
@[simp] theorem buildFrame_wb (x : Txn) : (buildFrame x s).wb = s.wb := rfl
@[simp] theorem buildFrame_buf (x : Txn) : (buildFrame x s).buf = builtFrame s.crcEn x := rfl
@[simp] theorem buildFrame_len (x : Txn) : (buildFrame x s).len = frameLen s.crcEn := rfl
@[simp] theorem buildFrame_phase (x : Txn) : (buildFrame x s).phase = s.phase := rfl
@[simp] theorem buildFrame_op (x : Txn) : (buildFrame x s).op = s.op := rfl
@[simp] theorem buildFrame_response (x : Txn) : (buildFrame x s).response = s.response := rfl
@[simp] theorem buildFrame_params (x : Txn) : (buildFrame x s).params = s.params := rfl
@[simp] theorem buildFrame_requests (x : Txn) : (buildFrame x s).requests = s.requests := rfl
@[simp] theorem buildFrame_answers (x : Txn) : (buildFrame x s).answers = s.answers := rfl
@[simp] theorem buildFrame_draws (x : Txn) : (buildFrame x s).draws = s.draws := rfl
@[simp] theorem buildFrame_calls (x : Txn) : (buildFrame x s).calls = s.calls := rfl
@[simp] theorem buildFrame_crcOut (x : Txn) : (buildFrame x s).crcOut = s.crcOut := rfl

@[simp] theorem receive_crcEn (f : Frame) : (receive f s).crcEn = s.crcEn := rfl
@[simp] theorem receive_err (f : Frame) : (receive f s).err = s.err := rfl
@[simp] theorem receive_di (f : Frame) : (receive f s).di = s.di := rfl
@[simp] theorem receive_wb (f : Frame) : (receive f s).wb = s.wb := rfl
@[simp] theorem receive_buf (f : Frame) : (receive f s).buf = exchanged s.buf s.len f := rfl
@[simp] theorem receive_len (f : Frame) : (receive f s).len = s.len := rfl
@[simp] theorem receive_phase (f : Frame) : (receive f s).phase = s.phase := rfl
@[simp] theorem receive_op (f : Frame) : (receive f s).op = s.op := rfl
@[simp] theorem receive_response (f : Frame) : (receive f s).response = s.response := rfl
@[simp] theorem receive_params (f : Frame) : (receive f s).params = s.params := rfl
@[simp] theorem receive_requests (f : Frame) : (receive f s).requests = s.requests := rfl
@[simp] theorem receive_answers (f : Frame) : (receive f s).answers = s.answers := rfl
@[simp] theorem receive_draws (f : Frame) : (receive f s).draws = s.draws := rfl
@[simp] theorem receive_calls (f : Frame) : (receive f s).calls = s.calls := rfl
@[simp] theorem receive_crcOut (f : Frame) : (receive f s).crcOut = s.crcOut := rfl

@[simp] theorem verifyFrame_crcEn : (verifyFrame s).crcEn = s.crcEn := rfl
@[simp] theorem verifyFrame_err : (verifyFrame s).err = if s.crcEn && !frameValid s.buf then s.err ||| ErrKind.mask s.params .integ else s.err := rfl
@[simp] theorem verifyFrame_di : (verifyFrame s).di = s.di := rfl
@[simp] theorem verifyFrame_wb : (verifyFrame s).wb = s.wb := rfl
@[simp] theorem verifyFrame_buf : (verifyFrame s).buf = s.buf := rfl
@[simp] theorem verifyFrame_len : (verifyFrame s).len = s.len := rfl
@[simp] theorem verifyFrame_phase : (verifyFrame s).phase = s.phase := rfl
@[simp] theorem verifyFrame_op : (verifyFrame s).op = s.op := rfl
@[simp] theorem verifyFrame_response : (verifyFrame s).response = s.response := rfl
@[simp] theorem verifyFrame_params : (verifyFrame s).params = s.params := rfl
@[simp] theorem verifyFrame_requests : (verifyFrame s).requests = s.requests := rfl
@[simp] theorem verifyFrame_answers : (verifyFrame s).answers = s.answers := rfl
@[simp] theorem verifyFrame_draws : (verifyFrame s).draws = s.draws := rfl
@[simp] theorem verifyFrame_calls : (verifyFrame s).calls = s.calls := rfl
@[simp] theorem verifyFrame_crcOut : (verifyFrame s).crcOut = s.crcOut := rfl

@[simp] theorem snapshot_crcEn (d : Dir) : (snapshot d s).crcEn = s.crcEn := rfl
@[simp] theorem snapshot_err (d : Dir) : (snapshot d s).err = s.err := rfl
@[simp] theorem snapshot_di (d : Dir) : (snapshot d s).di = s.buf.b0 := rfl
@[simp] theorem snapshot_buf (d : Dir) : (snapshot d s).buf = s.buf := rfl
@[simp] theorem snapshot_len (d : Dir) : (snapshot d s).len = s.len := rfl
@[simp] theorem snapshot_phase (d : Dir) : (snapshot d s).phase = s.phase := rfl
@[simp] theorem snapshot_op (d : Dir) : (snapshot d s).op = s.op := rfl
@[simp] theorem snapshot_response (d : Dir) : (snapshot d s).response = s.response := rfl
@[simp] theorem snapshot_params (d : Dir) : (snapshot d s).params = s.params := rfl
@[simp] theorem snapshot_requests (d : Dir) : (snapshot d s).requests = s.requests := rfl
@[simp] theorem snapshot_answers (d : Dir) : (snapshot d s).answers = s.answers := rfl
@[simp] theorem snapshot_draws (d : Dir) : (snapshot d s).draws = s.draws := rfl
@[simp] theorem snapshot_calls (d : Dir) : (snapshot d s).calls = s.calls := rfl
@[simp] theorem snapshot_crcOut (d : Dir) : (snapshot d s).crcOut = s.crcOut := rfl
@[simp] theorem snapshot_rd_wb : (snapshot .rd s).wb = s.wb := rfl
@[simp] theorem snapshot_wr_wb : (snapshot .wr s).wb = s.buf.b1 := rfl

@[simp] theorem goTo_crcEn (p : Progress) : (goTo p s).crcEn = s.crcEn := rfl
@[simp] theorem goTo_err (p : Progress) : (goTo p s).err = s.err := rfl
@[simp] theorem goTo_di (p : Progress) : (goTo p s).di = s.di := rfl
@[simp] theorem goTo_wb (p : Progress) : (goTo p s).wb = s.wb := rfl
@[simp] theorem goTo_buf (p : Progress) : (goTo p s).buf = s.buf := rfl
@[simp] theorem goTo_len (p : Progress) : (goTo p s).len = s.len := rfl
@[simp] theorem goTo_phase (p : Progress) : (goTo p s).phase = .build := rfl
@[simp] theorem goTo_op (p : Progress) : (goTo p s).op = some p := rfl
@[simp] theorem goTo_response (p : Progress) : (goTo p s).response = s.response := rfl
@[simp] theorem goTo_params (p : Progress) : (goTo p s).params = s.params := rfl
@[simp] theorem goTo_requests (p : Progress) : (goTo p s).requests = s.requests := rfl
@[simp] theorem goTo_answers (p : Progress) : (goTo p s).answers = s.answers := rfl
@[simp] theorem goTo_draws (p : Progress) : (goTo p s).draws = s.draws := rfl
@[simp] theorem goTo_calls (p : Progress) : (goTo p s).calls = s.calls := rfl
@[simp] theorem goTo_crcOut (p : Progress) : (goTo p s).crcOut = s.crcOut := rfl

@[simp] theorem complete_crcEn (r : Response) : (complete r s).crcEn = s.crcEn := rfl
@[simp] theorem complete_err (r : Response) : (complete r s).err = s.err := rfl
@[simp] theorem complete_di (r : Response) : (complete r s).di = s.di := rfl
@[simp] theorem complete_wb (r : Response) : (complete r s).wb = s.wb := rfl
@[simp] theorem complete_buf (r : Response) : (complete r s).buf = s.buf := rfl
@[simp] theorem complete_len (r : Response) : (complete r s).len = s.len := rfl
@[simp] theorem complete_phase (r : Response) : (complete r s).phase = .idle := rfl
@[simp] theorem complete_op (r : Response) : (complete r s).op = none := rfl
@[simp] theorem complete_response (r : Response) : (complete r s).response = r := rfl
@[simp] theorem complete_params (r : Response) : (complete r s).params = s.params := rfl
@[simp] theorem complete_requests (r : Response) : (complete r s).requests = s.requests := rfl
@[simp] theorem complete_answers (r : Response) : (complete r s).answers = s.answers := rfl
@[simp] theorem complete_draws (r : Response) : (complete r s).draws = s.draws := rfl
@[simp] theorem complete_calls (r : Response) : (complete r s).calls = s.calls := rfl
@[simp] theorem complete_crcOut (r : Response) : (complete r s).crcOut = s.crcOut := rfl

@[simp] theorem dropAnswers_crcEn (n : Nat) : (s.dropAnswers n).crcEn = s.crcEn := rfl
@[simp] theorem dropAnswers_err (n : Nat) : (s.dropAnswers n).err = s.err := rfl
@[simp] theorem dropAnswers_di (n : Nat) : (s.dropAnswers n).di = s.di := rfl
@[simp] theorem dropAnswers_wb (n : Nat) : (s.dropAnswers n).wb = s.wb := rfl
@[simp] theorem dropAnswers_buf (n : Nat) : (s.dropAnswers n).buf = s.buf := rfl
@[simp] theorem dropAnswers_len (n : Nat) : (s.dropAnswers n).len = s.len := rfl
@[simp] theorem dropAnswers_phase (n : Nat) : (s.dropAnswers n).phase = s.phase := rfl
@[simp] theorem dropAnswers_op (n : Nat) : (s.dropAnswers n).op = s.op := rfl
@[simp] theorem dropAnswers_response (n : Nat) : (s.dropAnswers n).response = s.response := rfl
@[simp] theorem dropAnswers_params (n : Nat) : (s.dropAnswers n).params = s.params := rfl
@[simp] theorem dropAnswers_requests (n : Nat) : (s.dropAnswers n).requests = s.requests := rfl
@[simp] theorem dropAnswers_answers (n : Nat) : (s.dropAnswers n).answers = s.answers.drop n := rfl
@[simp] theorem dropAnswers_draws (n : Nat) : (s.dropAnswers n).draws = s.draws + (n - s.answers.length) := rfl
@[simp] theorem dropAnswers_calls (n : Nat) : (s.dropAnswers n).calls = s.calls := rfl
@[simp] theorem dropAnswers_crcOut (n : Nat) : (s.dropAnswers n).crcOut = s.crcOut := rfl

@[simp] theorem presentNext_crcEn (r : Request) : (presentNext r s).crcEn = s.crcEn := rfl
@[simp] theorem presentNext_err (r : Request) : (presentNext r s).err = s.err := rfl
@[simp] theorem presentNext_di (r : Request) : (presentNext r s).di = s.di := rfl
@[simp] theorem presentNext_wb (r : Request) : (presentNext r s).wb = s.wb := rfl
@[simp] theorem presentNext_buf (r : Request) : (presentNext r s).buf = s.buf := rfl
@[simp] theorem presentNext_len (r : Request) : (presentNext r s).len = s.len := rfl
@[simp] theorem presentNext_phase (r : Request) : (presentNext r s).phase = .idle := rfl
@[simp] theorem presentNext_op (r : Request) : (presentNext r s).op = none := rfl
@[simp] theorem presentNext_response (r : Request) : (presentNext r s).response = s.response := rfl
@[simp] theorem presentNext_params (r : Request) : (presentNext r s).params = s.params := rfl
@[simp] theorem presentNext_requests (r : Request) : (presentNext r s).requests = r :: s.requests := rfl
@[simp] theorem presentNext_answers (r : Request) : (presentNext r s).answers = s.answers := rfl
@[simp] theorem presentNext_draws (r : Request) : (presentNext r s).draws = s.draws := rfl
@[simp] theorem presentNext_calls (r : Request) : (presentNext r s).calls = s.calls := rfl
@[simp] theorem presentNext_crcOut (r : Request) : (presentNext r s).crcOut = s.crcOut := rfl

end Sys2Proof.Machine
end

