-- ==== Sys2Proof/Laws/Ops.lean ====
section
/-! SUPPORT. What each named operation over the ports and registers can do, said once. -/

namespace Sys2Proof.Machine

/-! ### The transport port -/

@[simp] theorem dropAnswers_zero (s : State) : s.dropAnswers 0 = s := by
  simp [State.dropAnswers]

theorem dropAnswers_dropAnswers (s : State) (m n : Nat) :
    (s.dropAnswers m).dropAnswers n = s.dropAnswers (m + n) := by
  simp only [State.dropAnswers, List.drop_drop, List.length_drop]
  congr 1
  omega

theorem dropAnswers_answerAt (s : State) (m n : Nat) :
    (s.dropAnswers m).answerAt n = s.answerAt (m + n) := by
  simp only [State.answerAt, State.dropAnswers, List.getElem?_drop, List.length_drop]
  congr 2
  omega

theorem answerAt_congr {s t : State} (ha : s.answers = t.answers) (hd : s.draws = t.draws)
    (n : Nat) : s.answerAt n = t.answerAt n := by
  simp [State.answerAt, ha, hd]

/-- The outstanding call either stays outstanding, the port alone having moved, or returns
with the next reply. -/
theorem awaitReply_cases (k : Reply → State → State) (s : State) :
    (s.answerAt 0 = .silent ∧ awaitReply k s = s.dropAnswers 1) ∨
      ∃ r, s.answerAt 0 = .reply r ∧ awaitReply k s = k r (s.dropAnswers 1) := by
  unfold awaitReply
  split <;> simp_all

theorem awaitReply_silent {k : Reply → State → State} {s : State} (h : s.answerAt 0 = .silent) :
    awaitReply k s = s.dropAnswers 1 := by
  simp [awaitReply, h]

theorem awaitReply_reply {k : Reply → State → State} {s : State} {r : Reply}
    (h : s.answerAt 0 = .reply r) : awaitReply k s = k r (s.dropAnswers 1) := by
  simp [awaitReply, h]

/-! ### The command port -/

theorem ready_iff (s : State) : s.ready = true ↔ s.phase = .idle ∧ s.op = none := by
  unfold State.ready
  split <;> simp_all

theorem not_ready_of_op {s : State} {p : Progress} (h : s.op = some p) : s.ready = false := by
  unfold State.ready
  split <;> simp_all

/-- An idle block runs the command, a busy one refuses it. -/
theorem accept_cases (p : Progress) (entry : State → State) (s : State) :
    (s.ready = true ∧ accept p entry s = .next (runBlock (goTo p (entry s)))) ∨
      (s.ready = false ∧ accept p entry s = .refused .busy) := by
  unfold accept
  cases s.ready <;> simp

theorem takeRequest_cases (s : State) :
    (s.requests = [] ∧ takeRequest s = none) ∨
      ∃ r rest, s.requests = r :: rest ∧
        takeRequest s = some (r, { s with requests := rest }) := by
  unfold takeRequest
  split <;> simp_all

/-! ### The error accumulator -/

/-- The mask of a kind says that kind and not the other, in every instance. -/
@[simp] theorem ErrKind.isSet_mask (p : Params) (k k' : ErrKind) :
    ErrKind.isSet p k' (ErrKind.mask p k) = decide (k = k') := by
  unfold ErrKind.isSet ErrKind.mask ErrKind.position
  generalize p.commBit = b
  cases k <;> cases k' <;> revert b <;> decide

@[simp] theorem ErrKind.isSet_or (p : Params) (k : ErrKind) (a b : BitVec 2) :
    ErrKind.isSet p k (a ||| b) = (ErrKind.isSet p k a || ErrKind.isSet p k b) := by
  simp [ErrKind.isSet]

@[simp] theorem ErrKind.isSet_zero (p : Params) (k : ErrKind) : ErrKind.isSet p k 0 = false := by
  simp [ErrKind.isSet]

/-- The two masks together are every bit of `ERR`. -/
theorem ErrKind.mask_comm_or_integ (p : Params) :
    ErrKind.mask p .comm ||| ErrKind.mask p .integ = 0b11 := by
  unfold ErrKind.mask ErrKind.position
  generalize p.commBit = b
  revert b
  decide

/-- Recording an error clears no bit of `ERR`. -/
theorem recordError_keeps (k : ErrKind) (b : Bool) (s : State) :
    (recordError k b s).err ||| s.err = (recordError k b s).err := by
  cases b <;> simp [BitVec.or_comm, ← BitVec.or_assoc]

/-! ### The buffer -/

/-- An exchange of a mode's length takes the received bytes, the third in checked mode
only. -/
theorem exchanged_frameLen (c : Bool) (f rx : Frame) :
    exchanged f (frameLen c) rx = ⟨rx.b0, rx.b1, if c then rx.b2 else f.b2⟩ := by
  cases c <;> rfl

theorem sentBytes_frameLen (c : Bool) (f : Frame) :
    sentBytes f (frameLen c) = if c then [f.b0, f.b1, f.b2] else [f.b0, f.b1] := by
  cases c <;> rfl

/-! ### The channels of a mask -/

theorem mem_channelIndices (i : Fin 8) : i ∈ channelIndices := by
  revert i; decide

/-- The next channel is a member of the mask, not below `n`, and no member lies between. -/
theorem nextChannel_some {m : Byte} {n : Nat} {i : Fin 8} (h : nextChannel m n = some i) :
    m.getLsbD i.val = true ∧ n ≤ i.val ∧
      ∀ j : Nat, n ≤ j → j < i.val → m.getLsbD j = false := by
  have hp := List.find?_some h
  simp only [Bool.and_eq_true, decide_eq_true_eq] at hp
  refine ⟨hp.2, hp.1, fun j hn hj => ?_⟩
  obtain ⟨_, as, bs, hl, hbefore⟩ := List.find?_eq_some_iff_append.mp h
  have hj8 : j < 8 := by omega
  have hmem : (⟨j, hj8⟩ : Fin 8) ∈ as := by
    have hs : List.Pairwise (· < ·) channelIndices := by decide
    have hin : (⟨j, hj8⟩ : Fin 8) ∈ channelIndices := mem_channelIndices _
    rw [hl] at hin hs
    rcases List.mem_append.mp hin with h1 | h1
    · exact h1
    · exfalso
      rcases List.mem_cons.mp h1 with h2 | h2
      · have : j = i.val := congrArg Fin.val h2
        omega
      · have := (List.pairwise_cons.mp (List.pairwise_append.mp hs).2.1).1 _ h2
        have : i.val < j := this
        omega
  have := hbefore _ hmem
  simpa [hn] using this

/-- There is no next channel exactly when no bit from `n` up is set. -/
theorem nextChannel_none {m : Byte} {n : Nat} (h : nextChannel m n = none) (j : Nat)
    (hn : n ≤ j) : m.getLsbD j = false := by
  by_cases hj : j < 8
  · have := List.find?_eq_none.mp h _ (mem_channelIndices ⟨j, hj⟩)
    simpa [hn] using this
  · exact BitVec.getLsbD_of_ge m j (by omega)

end Sys2Proof.Machine
end

