-- ==== Sys2Proof/Laws/PerInstr.lean ====
section
/-! SUPPORT. A statement made for each instruction: where its word stands in the opcode map. -/

namespace Sys2Proof.Laws.OpcodeMap

/-- The port and the operation code of an instruction's word (R56, R58). -/
def Statement : Instr → Prop
  | .crc5 w => encode (.crc5 w) = .crcIn w
  | .rdreg a => ∃ w, encode (.rdreg a) = .cmd w ∧ cmdOp w = 0b000
  | .wrreg a d => ∃ w, encode (.wrreg a d) = .cmd w ∧ cmdOp w = 0b001
  | .init => ∃ w, encode .init = .cmd w ∧ cmdOp w = 0b010
  | .refresh => ∃ w, encode .refresh = .cmd w ∧ cmdOp w = 0b011
  | .setfilt m v => ∃ w, encode (.setfilt m v) = .cmd w ∧ cmdOp w = 0b100
  | .getflt => ∃ w, encode .getflt = .cmd w ∧ cmdOp w = 0b101

theorem crc5 (w : BitVec 24) : Statement (.crc5 w) := rfl

theorem rdreg (a : Byte) : Statement (.rdreg a) := ⟨_, rfl, cmdOp_cmdWord _ _ _⟩

theorem wrreg (a d : Byte) : Statement (.wrreg a d) := ⟨_, rfl, cmdOp_cmdWord _ _ _⟩

theorem init : Statement .init := ⟨_, rfl, cmdOp_cmdWord _ _ _⟩

theorem refresh : Statement .refresh := ⟨_, rfl, cmdOp_cmdWord _ _ _⟩

theorem setfilt (m v : Byte) : Statement (.setfilt m v) := ⟨_, rfl, cmdOp_cmdWord _ _ _⟩

theorem getflt : Statement .getflt := ⟨_, rfl, cmdOp_cmdWord _ _ _⟩

end Sys2Proof.Laws.OpcodeMap
end

