-- ==== Sys2Proof/Laws/Sequencer.lean ====
section
/-! SUPPORT. What each phase can do, and how a transaction runs: the lemmas later proofs cite
instead of unfolding the sequencer. -/

namespace Sys2Proof.Machine

/-! ### One phase -/

theorem buildPhase_cases (s : State) :
    buildPhase s = s ∨ ∃ p, s.phase = .build ∧ s.op = some p ∧
      buildPhase s = issue .acquire .acquire (buildFrame (p.txn s.params) s) := by
  unfold buildPhase
  split <;> simp_all

theorem acquirePhase_cases (s : State) :
    acquirePhase s = s ∨
    (s.phase = .acquire ∧ s.answerAt 0 = .silent ∧ acquirePhase s = s.dropAnswers 1) ∨
    ∃ r, s.phase = .acquire ∧ s.answerAt 0 = .reply r ∧
      acquirePhase s = acquired r (s.dropAnswers 1) := by
  unfold acquirePhase
  split
  · rename_i h
    rcases awaitReply_cases acquired s with ⟨h1, h2⟩ | ⟨r, h1, h2⟩
    · exact .inr (.inl ⟨h, h1, h2⟩)
    · exact .inr (.inr ⟨r, h, h1, h2⟩)
  · exact .inl rfl

theorem exchangePhase_cases (s : State) :
    exchangePhase s = s ∨
    (s.phase = .exchange ∧ s.answerAt 0 = .silent ∧ exchangePhase s = s.dropAnswers 1) ∨
    ∃ r, s.phase = .exchange ∧ s.answerAt 0 = .reply r ∧
      exchangePhase s = received r (s.dropAnswers 1) := by
  unfold exchangePhase
  split
  · rename_i h
    rcases awaitReply_cases received s with ⟨h1, h2⟩ | ⟨r, h1, h2⟩
    · exact .inr (.inl ⟨h, h1, h2⟩)
    · exact .inr (.inr ⟨r, h, h1, h2⟩)
  · exact .inl rfl

theorem releasePhase_cases (s : State) :
    releasePhase s = s ∨
    (s.phase = .release ∧ s.answerAt 0 = .silent ∧ releasePhase s = s.dropAnswers 1) ∨
    ∃ r, s.phase = .release ∧ s.answerAt 0 = .reply r ∧
      releasePhase s = released r (s.dropAnswers 1) := by
  unfold releasePhase
  split
  · rename_i h
    rcases awaitReply_cases released s with ⟨h1, h2⟩ | ⟨r, h1, h2⟩
    · exact .inr (.inl ⟨h, h1, h2⟩)
    · exact .inr (.inr ⟨r, h, h1, h2⟩)
  · exact .inl rfl

theorem verifyPhase_cases (s : State) :
    verifyPhase s = s ∨ (s.phase = .verify ∧ verifyPhase s = enter .update (verifyFrame s)) := by
  unfold verifyPhase
  split <;> simp_all

theorem updatePhase_cases (s : State) :
    updatePhase s = s ∨ ∃ p, s.phase = .update ∧ s.op = some p ∧
      updatePhase s = advance p (snapshot (p.txn s.params).dir s) := by
  unfold updatePhase
  split <;> simp_all

/-- After a transaction a command either goes on to build another one, fewer being left, or
completes; only `ERR` (by INIT's read-back) and the sequencer change, and the response on
completion. -/
theorem advance_cases (p : Progress) (s : State) :
    (∃ q, advance p s = goTo q s ∧ q.txnsLeft s.params < p.txnsLeft s.params) ∨
      ∃ b r, advance p s = complete r (recordError .comm b s) := by
  have hrec : ∀ t : State, recordError .comm false t = t := fun t => rfl
  cases p with
  | rdreg a => exact .inr ⟨false, _, rfl⟩
  | wrreg a d => exact .inr ⟨false, _, rfl⟩
  | refresh => exact .inr ⟨false, _, rfl⟩
  | getfltHi => exact .inl ⟨_, rfl, by simp [Progress.txnsLeft]⟩
  | getfltLo hi => exact .inr ⟨false, _, rfl⟩
  | initReadback st => exact .inr ⟨_, _, rfl⟩
  | initStatus =>
    refine .inl ?_
    simp only [advance, initBranch]
    cases hw : (if takesWriteBranch s.params s.buf.b1 then s.params.initWrites else []) with
    | nil => exact ⟨_, rfl, by simp [Progress.txnsLeft]⟩
    | cons w rest =>
      refine ⟨_, rfl, ?_⟩
      split at hw
      · simp [Progress.txnsLeft, hw]
      · cases hw
  | initWrite st a v rest =>
    refine .inl ?_
    cases rest with
    | nil => exact ⟨_, rfl, by simp [Progress.txnsLeft]⟩
    | cons w rest => exact ⟨_, rfl, by simp [Progress.txnsLeft]⟩
  | setfilt m v i =>
    simp only [advance, setfiltNext]
    cases h : nextChannel m (i.val + 1) with
    | none => exact .inr ⟨false, _, rfl⟩
    | some j =>
      refine .inl ⟨_, rfl, ?_⟩
      have := (nextChannel_some h).2.1
      simp only [Progress.txnsLeft]
      omega

theorem txnsLeft_pos (p : Progress) (ps : Params) : 0 < p.txnsLeft ps := by
  cases p <;> simp only [Progress.txnsLeft] <;> omega

/-! ### Where a transaction ends -/

/-- `t` is past BUILD in the transaction of `p`. -/
def inTxn (p : Progress) (ps : Params) (t : State) : Prop :=
  t.op = some p ∧ t.params = ps ∧
    (t.phase.awaits = true ∨ t.phase = .verify ∨ t.phase = .update)

theorem buildPhase_inTxn {s : State} {p : Progress} (hop : s.op = some p) (hph : s.phase ≠ .idle) :
    inTxn p s.params (buildPhase s) := by
  by_cases hb : s.phase = .build
  · have : buildPhase s = issue .acquire .acquire (buildFrame (p.txn s.params) s) := by
      simp [buildPhase, hb, hop]
    rw [this]
    exact ⟨hop, rfl, .inl rfl⟩
  · have : buildPhase s = s := by
      rcases buildPhase_cases s with h | ⟨q, h1, _⟩
      · exact h
      · exact absurd h1 hb
    rw [this]
    refine ⟨hop, rfl, ?_⟩
    cases hp : s.phase <;> simp_all [Phase.awaits]

theorem acquirePhase_inTxn {p : Progress} {ps : Params} {t : State} (ht : inTxn p ps t) :
    inTxn p ps (acquirePhase t) := by
  rcases acquirePhase_cases t with h | ⟨_, _, h⟩ | ⟨r, _, _, h⟩ <;> rw [h]
  · exact ht
  · exact ht
  · exact ⟨ht.1, ht.2.1, .inl rfl⟩

theorem exchangePhase_inTxn {p : Progress} {ps : Params} {t : State} (ht : inTxn p ps t) :
    inTxn p ps (exchangePhase t) := by
  rcases exchangePhase_cases t with h | ⟨_, _, h⟩ | ⟨r, _, _, h⟩ <;> rw [h]
  · exact ht
  · exact ht
  · exact ⟨ht.1, ht.2.1, .inl rfl⟩

theorem releasePhase_inTxn {p : Progress} {ps : Params} {t : State} (ht : inTxn p ps t) :
    inTxn p ps (releasePhase t) := by
  rcases releasePhase_cases t with h | ⟨_, _, h⟩ | ⟨r, _, _, h⟩ <;> rw [h]
  · exact ht
  · exact ht
  · exact ⟨ht.1, ht.2.1, .inr (.inl rfl)⟩

/-- VERIFY never stalls. -/
theorem verifyPhase_inTxn {p : Progress} {ps : Params} {t : State} (ht : inTxn p ps t) :
    inTxn p ps (verifyPhase t) ∧ (verifyPhase t).phase ≠ .verify := by
  rcases verifyPhase_cases t with h | ⟨_, h⟩
  · have hne : t.phase ≠ .verify := by
      intro hv
      have := congrArg State.phase h
      simp [verifyPhase, hv] at this
    rw [h]
    exact ⟨ht, hne⟩
  · rw [h]
    exact ⟨⟨ht.1, ht.2.1, .inr (.inr rfl)⟩, by simp⟩

/-- What one transaction leaves, begun or resumed outside IDLE: the block waits for a call with
the same transaction in progress; or it is to build another one, fewer being left; or the
command is complete. -/
theorem runTxn_cases {s : State} {p : Progress} (hop : s.op = some p) (hph : s.phase ≠ .idle) :
    ((runTxn s).phase.awaits = true ∧ (runTxn s).op = some p) ∨
    (∃ q, (runTxn s).phase = .build ∧ (runTxn s).op = some q ∧
      q.txnsLeft s.params < p.txnsLeft s.params) ∨
    ((runTxn s).phase = .idle ∧ (runTxn s).op = none) := by
  have h5 := verifyPhase_inTxn (releasePhase_inTxn (exchangePhase_inTxn (acquirePhase_inTxn
    (buildPhase_inTxn hop hph))))
  unfold runTxn
  generalize verifyPhase (releasePhase (exchangePhase (acquirePhase (buildPhase s)))) = t at h5 ⊢
  obtain ⟨⟨h1, h2, h3⟩, h4⟩ := h5
  rcases h3 with h3 | h3 | h3
  · have : updatePhase t = t := by
      rcases updatePhase_cases t with h | ⟨q, hq, _⟩
      · exact h
      · rw [hq] at h3; cases h3
    rw [this]
    exact .inl ⟨h3, h1⟩
  · exact absurd h3 h4
  · have : updatePhase t = advance p (snapshot (p.txn t.params).dir t) := by
      simp [updatePhase, h3, h1]
    rw [this]
    rcases advance_cases p (snapshot (p.txn t.params).dir t) with ⟨q, hq, hl⟩ | ⟨b, r, hq⟩
    · exact .inr (.inl ⟨q, by rw [hq]; rfl, by rw [hq]; rfl, by simpa [h2] using hl⟩)
    · exact .inr (.inr (by rw [hq]; exact ⟨rfl, rfl⟩))

/-! ### Packaged induction over the phases -/

/-- A property that every phase keeps is kept by a transaction. -/
theorem runTxn_keeps {P : State → Prop} {s : State} (hs : P s)
    (hb : ∀ t, P t → P (buildPhase t)) (ha : ∀ t, P t → P (acquirePhase t))
    (he : ∀ t, P t → P (exchangePhase t)) (hr : ∀ t, P t → P (releasePhase t))
    (hv : ∀ t, P t → P (verifyPhase t)) (hu : ∀ t, P t → P (updatePhase t)) :
    P (runTxn s) :=
  hu _ (hv _ (hr _ (he _ (ha _ (hb _ hs)))))

/-- A property that a transaction keeps is kept by any number of them. -/
theorem runTxns_keeps {P : State → Prop} (hstep : ∀ t, P t → P (runTxn t)) :
    ∀ (n : Nat) (s : State), P s → P (runTxns n s)
  | 0, _, hs => hs
  | n + 1, s, hs => by
    simp only [runTxns]
    split
    · exact runTxns_keeps hstep n _ (hstep s hs)
    · exact hstep s hs

/-- A property that a transaction keeps is kept by the block running on. -/
theorem runBlock_keeps {P : State → Prop} (hstep : ∀ t, P t → P (runTxn t)) (s : State)
    (hs : P s) : P (runBlock s) := by
  unfold runBlock
  split
  · exact hs
  · exact runTxns_keeps hstep _ s hs

/-- No phase writes a parameter. -/
theorem runTxn_params (s : State) : (runTxn s).params = s.params := by
  refine runTxn_keeps (P := fun t => t.params = s.params) rfl ?_ ?_ ?_ ?_ ?_ ?_ <;> intro t ht
  · rcases buildPhase_cases t with h | ⟨_, _, _, h⟩ <;> rw [h] <;> exact ht
  · rcases acquirePhase_cases t with h | ⟨_, _, h⟩ | ⟨_, _, _, h⟩ <;> rw [h] <;> exact ht
  · rcases exchangePhase_cases t with h | ⟨_, _, h⟩ | ⟨_, _, _, h⟩ <;> rw [h] <;> exact ht
  · rcases releasePhase_cases t with h | ⟨_, _, h⟩ | ⟨_, _, _, h⟩ <;> rw [h] <;> exact ht
  · rcases verifyPhase_cases t with h | ⟨_, h⟩ <;> rw [h] <;> exact ht
  · rcases updatePhase_cases t with h | ⟨p, _, _, h⟩
    · rw [h]; exact ht
    · rw [h]
      rcases advance_cases p (snapshot (p.txn t.params).dir t) with ⟨_, h, _⟩ | ⟨_, _, h⟩ <;>
        rw [h] <;> exact ht

/-- With as many transactions allowed as the command has left, the block stops only where it
waits for a call or is idle. -/
theorem runTxns_settled : ∀ (n : Nat) (s : State) (p : Progress), s.op = some p →
    s.phase ≠ .idle → p.txnsLeft s.params ≤ n →
    ((runTxns n s).phase.awaits = true ∧ ∃ q, (runTxns n s).op = some q) ∨
      ((runTxns n s).phase = .idle ∧ (runTxns n s).op = none)
  | 0, s, p, _, _, hn => absurd hn (by have := txnsLeft_pos p s.params; omega)
  | n + 1, s, p, hop, hph, hn => by
    simp only [runTxns]
    rcases runTxn_cases hop hph with ⟨h1, h2⟩ | ⟨q, h1, h2, h3⟩ | ⟨h1, h2⟩
    · split
      · rename_i hb; rw [hb] at h1; cases h1
      · exact .inl ⟨h1, p, h2⟩
    · simp only [h1]
      exact runTxns_settled n _ q h2 (by rw [h1]; simp) (by rw [runTxn_params]; omega)
    · simp only [h1]
      exact .inr ⟨by simp, h2⟩

/-- A block with a command in progress runs on until it waits for a call or is idle. -/
theorem runBlock_settled {s : State} {p : Progress} (hop : s.op = some p) (hph : s.phase ≠ .idle) :
    ((runBlock s).phase.awaits = true ∧ ∃ q, (runBlock s).op = some q) ∨
      ((runBlock s).phase = .idle ∧ (runBlock s).op = none) := by
  unfold runBlock
  simp only [hop]
  exact runTxns_settled _ s p hop hph (Nat.le_refl _)

/-! ### One transaction whose calls all return -/

/-- The transaction of `p` from BUILD to the end of VERIFY when its three calls return `r1`,
`r2` and `r3`, the transport port left as it was (R81). -/
def transacted (p : Progress) (r1 r2 r3 : Reply) (s : State) : State :=
  enter .update (verifyFrame (released r3 (received r2 (acquired r1
    (issue .acquire .acquire (buildFrame (p.txn s.params) s))))))

theorem transacted_answerAt (p : Progress) (r1 r2 r3 : Reply) (s : State) (n : Nat) :
    (transacted p r1 r2 r3 s).answerAt n = s.answerAt n :=
  answerAt_congr rfl rfl n

theorem runTxn_replies {s : State} {p : Progress} {r1 r2 r3 : Reply} (hph : s.phase = .build)
    (hop : s.op = some p) (h1 : s.answerAt 0 = .reply r1) (h2 : s.answerAt 1 = .reply r2)
    (h3 : s.answerAt 2 = .reply r3) :
    runTxn s = advance p
      (snapshot (p.txn s.params).dir ((transacted p r1 r2 r3 s).dropAnswers 3)) := by
  let s1 := issue .acquire .acquire (buildFrame (p.txn s.params) s)
  let s2 := acquired r1 s1
  let s3 := received r2 s2
  let s4 := released r3 s3
  have e1 : buildPhase s = s1 := by simp [buildPhase, hph, hop, s1]
  have e2 : acquirePhase s1 = s2.dropAnswers 1 :=
    awaitReply_reply (k := acquired) ((answerAt_congr rfl rfl 0).trans h1)
  have e3 : exchangePhase (s2.dropAnswers 1) = s3.dropAnswers 2 := by
    have h : (s2.dropAnswers 1).answerAt 0 = .reply r2 := by
      rw [dropAnswers_answerAt]; exact (answerAt_congr rfl rfl 1).trans h2
    exact (awaitReply_reply (k := received) h).trans (dropAnswers_dropAnswers s3 1 1)
  have e4 : releasePhase (s3.dropAnswers 2) = s4.dropAnswers 3 := by
    have h : (s3.dropAnswers 2).answerAt 0 = .reply r3 := by
      rw [dropAnswers_answerAt]; exact (answerAt_congr rfl rfl 2).trans h3
    exact (awaitReply_reply (k := released) h).trans (dropAnswers_dropAnswers s4 2 1)
  have e5 : verifyPhase (s4.dropAnswers 3) = (transacted p r1 r2 r3 s).dropAnswers 3 := rfl
  have e6 : ∀ t : State, t.phase = .update → t.op = some p →
      updatePhase t = advance p (snapshot (p.txn t.params).dir t) := by
    intro t ht ho
    simp [updatePhase, ht, ho]
  unfold runTxn
  rw [e1, e2, e3, e4, e5]
  exact e6 ((transacted p r1 r2 r3 s).dropAnswers 3) rfl hop

/-! ### A call that does not return -/

/-- While the outstanding call stays silent, the transaction's only change is at the
transport port (R44). -/
theorem runTxn_silent {s : State} (hph : s.phase = .acquire ∨ s.phase = .exchange ∨ s.phase = .release)
    (h : s.answerAt 0 = .silent) : runTxn s = s.dropAnswers 1 := by
  have e : ∀ k, awaitReply k s = s.dropAnswers 1 := fun k => awaitReply_silent h
  rcases hph with hp | hp | hp <;>
    simp [runTxn, buildPhase, acquirePhase, exchangePhase, releasePhase, verifyPhase,
      updatePhase, hp, e]

end Sys2Proof.Machine
end

