-- ==== Sys2Proof/Laws/Transaction.lean ====
section
/-! SUPPORT. A transaction of the sequencer is the procedure `Transact` of R81. -/

namespace Sys2Proof.Machine

/-- The `k`-th answer of a transport that will reply `rs`. -/
theorem willReply_answerAt {s : State} {rs : List Reply} (h : s.willReply rs) (k : Nat)
    (hk : k < rs.length) : s.answerAt k = .reply rs[k] := by
  have := congrArg (fun l => l[k]?) h
  simpa [hk] using this

/-- What the transport will reply depends on its port alone. -/
theorem willReply_congr {s t : State} {rs : List Reply} (ha : s.answers = t.answers)
    (hd : s.draws = t.draws) (h : s.willReply rs) : t.willReply rs := by
  unfold State.willReply at *
  rw [← h]
  exact List.map_congr_left fun k _ => (answerAt_congr ha hd k).symm

/-- The replies to a list of transactions, split after the first one. -/
theorem willReply_cons {s : State} {q : TxnReplies} {qs : List TxnReplies}
    (h : s.willReply (repliesOf (q :: qs))) :
    s.willReply (repliesOf [q]) ∧ (s.dropAnswers 3).willReply (repliesOf qs) := by
  have g := willReply_answerAt h
  have e : repliesOf (q :: qs) = q.acquire :: q.exchange :: q.release :: repliesOf qs := rfl
  constructor
  · have g0 := g 0 (by simp [e])
    have g1 := g 1 (by simp [e])
    have g2 := g 2 (by simp [e])
    simp only [e] at g0 g1 g2
    simp [State.willReply, repliesOf, List.range_succ, g0, g1, g2]
  · apply List.ext_getElem
    · simp
    · intro i h1 h2
      simp only [List.getElem_map, List.getElem_range]
      rw [dropAnswers_answerAt, Nat.add_comm, g (i + 3) (by simp [e] at h2 ⊢; omega)]
      simp [e]

/-- The sequencer's transaction, from BUILD to UPDATE, is `Transact` of R81. -/
theorem transacted_eq_transact (p : Progress) (q : TxnReplies) (s : State) :
    snapshot (p.txn s.params).dir (transacted p q.acquire q.exchange q.release s)
      = { Spec.transact (p.txn s.params) q s with phase := .update } := by
  obtain ⟨⟨ok1, f1⟩, ⟨ok2, f2⟩, ⟨ok3, f3⟩⟩ := q
  generalize hx : p.txn s.params = x
  obtain ⟨d, a, v⟩ := x
  obtain ⟨c, err, di, wb, buf, len, ph, op, resp, ps, rq, an, dr, ca, co⟩ := s
  simp only at hx
  cases d <;> cases c <;>
    simp only [transacted, snapshot, enter, verifyFrame, recordError, released, received, receive,
      acquired, issue, buildFrame, exchangeCall, Spec.transact, hx, builtFrame, byte0, byte1,
      frameLen, sentBytes, exchanged, frameWord, frameValid, State.mk.injEq] <;>
    refine ⟨?_, ?_, ?_, ?_, ?_, ?_, ?_, ?_, ?_, ?_, ?_, ?_, ?_, ?_, ?_⟩ <;>
    simp <;> cases ok1 <;> cases ok2 <;> cases ok3 <;> simp [BitVec.or_assoc] <;>
    split <;> simp_all

/-- A transaction whose three calls return: `Transact`, and the command goes on or completes. -/
theorem runTxn_eq_transact {s : State} {p : Progress} {q : TxnReplies} (hph : s.phase = .build)
    (hop : s.op = some p) (h : s.willReply (repliesOf [q])) :
    runTxn s = advance p
      (({ Spec.transact (p.txn s.params) q s with phase := .update } : State).dropAnswers 3) := by
  rw [runTxn_replies hph hop (willReply_answerAt h 0 (by simp [repliesOf]))
    (willReply_answerAt h 1 (by simp [repliesOf])) (willReply_answerAt h 2 (by simp [repliesOf])),
    ← transacted_eq_transact]
  rfl

end Sys2Proof.Machine
end

