-- ==== Sys2Proof/Laws/Step.lean ====
section
/-! SUPPORT. What an instruction and a step can do, said once. -/

namespace Sys2Proof.Machine

/-- Where a command begins: its first progress, and whether it clears `ERR` first. -/
def begins : Instr → Progress → Bool → Prop
  | .crc5 _, _, _ => False
  | .rdreg a, p, c => p = .rdreg a ∧ c = false
  | .wrreg a d, p, c => p = .wrreg a d ∧ c = false
  | .init, p, c => p = .initStatus ∧ c = true
  | .refresh, p, c => p = .refresh ∧ c = true
  | .setfilt m v, p, c => (∃ i, nextChannel m 0 = some i ∧ p = .setfilt m v i) ∧ c = true
  | .getflt, p, c => p = .getfltHi ∧ c = true

/-- An instruction that gives a next state is CRC5, which writes CRC_OUT, or a command an idle
block accepts and runs. -/
theorem exec_cases {i : Instr} {s t : State} (h : exec i s = .next t) :
    (∃ w, i = .crc5 w ∧ t = { s with crcOut := crc5 w }) ∨
    (s.ready = true ∧ ∃ p c, begins i p c ∧
      t = runBlock (goTo p (if c then clearErrors s else s))) := by
  have key : ∀ (p : Progress) (entry : State → State), accept p entry s = .next t →
      s.ready = true ∧ t = runBlock (goTo p (entry s)) := by
    intro p entry ha
    rcases accept_cases p entry s with ⟨hr, he⟩ | ⟨_, he⟩
    · rw [he] at ha
      cases ha
      exact ⟨hr, rfl⟩
    · rw [he] at ha
      cases ha
  cases i with
  | crc5 w => cases h; exact .inl ⟨w, rfl, rfl⟩
  | rdreg a => obtain ⟨hr, ht⟩ := key _ _ h; exact .inr ⟨hr, _, false, ⟨rfl, rfl⟩, ht⟩
  | wrreg a d => obtain ⟨hr, ht⟩ := key _ _ h; exact .inr ⟨hr, _, false, ⟨rfl, rfl⟩, ht⟩
  | init => obtain ⟨hr, ht⟩ := key _ _ h; exact .inr ⟨hr, _, true, ⟨rfl, rfl⟩, ht⟩
  | refresh => obtain ⟨hr, ht⟩ := key _ _ h; exact .inr ⟨hr, _, true, ⟨rfl, rfl⟩, ht⟩
  | getflt => obtain ⟨hr, ht⟩ := key _ _ h; exact .inr ⟨hr, _, true, ⟨rfl, rfl⟩, ht⟩
  | setfilt m v =>
    have h' : execSetfilt m v s = .next t := h
    unfold execSetfilt at h'
    split at h'
    · split at h'
      · rename_i j hj
        obtain ⟨hr, ht⟩ := key _ _ h'
        exact .inr ⟨hr, _, true, ⟨⟨j, hj, rfl⟩, rfl⟩, ht⟩
      · cases h'
    · cases h'

/-- A step that gives a next state waits, runs the instruction presented, or runs on with the
command in progress. -/
theorem step_cases {s t : State} (h : step s = .next t) :
    (s.ready = true ∧ s.requests = [] ∧ t = s) ∨
    (s.ready = true ∧ ∃ r rest i, s.requests = r :: rest ∧ decode r = .ok i ∧
      exec i { s with requests := rest } = .next t) ∨
    (s.ready = false ∧ t = runBlock s) := by
  unfold step at h
  split at h
  · rename_i hr
    rcases takeRequest_cases s with ⟨hq, ht⟩ | ⟨r, rest, hq, ht⟩
    · simp only [ht, Host.Outcome.next.injEq] at h
      exact .inl ⟨hr, hq, h.symm⟩
    · simp only [ht] at h
      split at h
      · rename_i i hd
        exact .inr (.inl ⟨hr, r, rest, i, hq, hd, h⟩)
      · cases h
  · rename_i hr
    simp only [Host.Outcome.next.injEq] at h
    exact .inr (.inr ⟨by simpa using hr, h.symm⟩)

end Sys2Proof.Machine
end

