-- ==== Sys2Proof/Tests/Slice0.lean ====
section
/-! SUPPORT. Small tests.  The expected values are those of spec/95_test_vectors.md (ids V, T,
P, X) and of 93_implementation_defined.md G1, used only as example parameter values; none is
the model's own answer. -/

namespace Sys2Proof.Machine.Tests

/-- The example parameters of programs P4 to P7. -/
def exampleParams : Params where
  crcEn := true
  chipAddr := 0
  addrStatus := 0x04
  porMask := 0x40
  initWriteIfPor := true
  initWrites := [(0x06, 0x08), (0x24, 0xC0), (0x04, 0x00)]
  addrFaultEn := 0x24
  faultEnExpect := 0xC0
  addrNop := 0x26
  nopData := 0x00
  addrFilterBase := 0x06
  addrFaultHi := 0x1C
  addrFaultLo := 0x04
  commBit := 0

/-- The three answers of one transaction. -/
def answer3 (a e r : Bool) (b0 b1 b2 : Byte) : List Answer :=
  [.reply ⟨a, ⟨0, 0, 0⟩⟩, .reply ⟨e, ⟨b0, b1, b2⟩⟩, .reply ⟨r, ⟨0, 0, 0⟩⟩]

/-- An idle block in the mode of `p`, with `ERR`, `DI`, `WB` as given and the transport about
to answer `as`. -/
def idleState (p : Params) (err : BitVec 2) (di wb : Byte) (as : List Answer) : State where
  crcEn := p.crcEn
  err := err
  di := di
  wb := wb
  buf := ⟨0, 0, 0⟩
  len := 0
  phase := .idle
  op := none
  response := .none
  params := p
  requests := []
  answers := as
  draws := 0
  calls := []
  crcOut := 0

/-- What a test looks at after a step. -/
def seen (o : Host.Outcome State Fault Refusal) :
    Option (BitVec 2 × Byte × Byte × Response × List Call) :=
  match o with
  | .next t => some (t.err, t.di, t.wb, t.response, t.calls)
  | .fault _ => none
  | .refused _ => none

/-- One transaction on the link. -/
def link (tx : List Byte) : List Call := [.acquire, .exchange 0 tx, .release]

/-! ### The other assignment of the bits of `ERR` (R6's last row): T13 and P5c with the two
numbers exchanged -/

theorem test_rdreg_T13_swapped :
    seen (exec (.rdreg 0x00) (idleState { exampleParams with commBit := 1 } 0b00 0x5A 0x11
      (answer3 true true true 0x00 0x00 0xE7)))
      = some (0b01, 0x00, 0x11, .byte 0x00, link [0x00, 0x00, 0x07]) := by decide +kernel

theorem test_init_P5c_swapped :
    seen (exec .init (idleState { exampleParams with commBit := 1 } 0b01 0x99 0x77
      (answer3 true true true 0x3C 0x00 0x15 ++ answer3 true true true 0x3C 0x40 0x0F)))
      = some (0b10, 0x3C, 0x77, .errMask 0b10,
        link [0x04, 0x00, 0x0F] ++ link [0x24, 0x00, 0x10]) := by decide +kernel

/-! ### The checksum engine: V9, V17 -/

theorem test_crc5_V9 : crc5 0xFFFFFF = 0x03 := by decide +kernel

theorem test_crc5_V17 : crc5 0x123456 = 0x1F := by decide +kernel

/-! ### RDREG: T13, P2 -/

theorem test_rdreg_T13 :
    seen (exec (.rdreg 0x00) (idleState exampleParams 0b00 0x5A 0x11 (answer3 true true true 0x00 0x00 0xE7)))
      = some (0b10, 0x00, 0x11, .byte 0x00, link [0x00, 0x00, 0x07]) := by decide +kernel

theorem test_rdreg_P2 :
    seen (exec (.rdreg 0x04) (idleState exampleParams 0b00 0x5A 0x00 (answer3 false true true 0xFF 0xFF 0xFF)))
      = some (0b11, 0xFF, 0x00, .byte 0xFF, link [0x04, 0x00, 0x0F]) := by decide +kernel

/-! ### WRREG: T8 with P1's answer, T16 -/

theorem test_wrreg_T8 :
    seen (exec (.wrreg 0x9E 0xC0) (idleState exampleParams 0b00 0x11 0x22 (answer3 true true true 0x5A 0x00 0x0D)))
      = some (0b00, 0x5A, 0x00, .none, link [0x9E, 0xC0, 0x03]) := by decide +kernel

theorem test_wrreg_T16 :
    seen (exec (.wrreg 0x26 0x00)
      (idleState { exampleParams with crcEn := false } 0b00 0x00 0x00 (answer3 true true true 0xF0 0x0F 0xFF)))
      = some (0b00, 0xF0, 0x0F, .none, link [0xA6, 0x00]) := by decide +kernel

/-! ### INIT: P5a, P5c -/

theorem test_init_P5a :
    seen (exec .init (idleState exampleParams 0b10 0x99 0x99
      (answer3 true true true 0x3C 0x40 0x0F ++ answer3 true true true 0x3C 0x00 0x15 ++
        answer3 true true true 0x3C 0x00 0x15 ++ answer3 true true true 0x3C 0x00 0x15 ++
        answer3 true true true 0x3C 0xC0 0x0E)))
      = some (0b00, 0x3C, 0x00, .errMask 0b00,
        link [0x04, 0x00, 0x0F] ++ link [0x86, 0x08, 0x13] ++ link [0xA4, 0xC0, 0x1D] ++
          link [0x84, 0x00, 0x19] ++ link [0x24, 0x00, 0x10]) := by decide +kernel

theorem test_init_P5c :
    seen (exec .init (idleState exampleParams 0b10 0x99 0x77
      (answer3 true true true 0x3C 0x00 0x15 ++ answer3 true true true 0x3C 0x40 0x0F)))
      = some (0b01, 0x3C, 0x77, .errMask 0b01,
        link [0x04, 0x00, 0x0F] ++ link [0x24, 0x00, 0x10]) := by decide +kernel

/-! ### REFRESH: P7 -/

theorem test_refresh_P7 :
    seen (exec .refresh (idleState exampleParams 0b11 0x00 0x00 (answer3 true true true 0x0F 0x80 0x18)))
      = some (0b00, 0x0F, 0x80, .errMask 0b00, link [0xA6, 0x00, 0x02]) := by decide +kernel

/-! ### SETFILT: P6, X2 -/

theorem test_setfilt_P6 :
    seen (exec (.setfilt 0x25 0x08) (idleState exampleParams 0b01 0x00 0x00
      (answer3 true true true 0x0F 0x00 0x19 ++ answer3 true false true 0x8A 0x08 0x0B ++
        answer3 true true true 0x0F 0x01 0x0E)))
      = some (0b11, 0x0F, 0x01, .none,
        link [0x86, 0x08, 0x13] ++ link [0x8A, 0x08, 0x0B] ++ link [0x90, 0x08, 0x0A]) := by decide +kernel

theorem test_setfilt_X2 :
    exec (.setfilt 0x00 0x08) (idleState exampleParams 0b01 0 0 []) = .refused .emptyMask := by rfl

/-! ### GETFLT: P4, P4b -/

theorem test_getflt_P4 :
    seen (exec .getflt (idleState exampleParams 0b11 0x00 0x7E
      (answer3 true true true 0xA5 0x12 0x01 ++ answer3 true true true 0xA5 0x34 0x4D)))
      = some (0b00, 0xA5, 0x7E, .faults 0x1234, link [0x1C, 0x00, 0x0A] ++ link [0x04, 0x00, 0x0F]) := by
  decide +kernel

theorem test_getflt_P4b :
    seen (exec .getflt (idleState exampleParams 0b11 0x00 0x7E
      (answer3 true true true 0xA5 0x12 0x01 ++ answer3 true true true 0xA5 0x35 0x4D)))
      = some (0b10, 0xA5, 0x7E, .faults 0x1235, link [0x1C, 0x00, 0x0A] ++ link [0x04, 0x00, 0x0F]) := by
  decide +kernel

/-! ### WellFormed: each check refuses an ill-formed term -/

theorem test_wellFormed_refuses_empty_mask : (Instr.setfilt 0x00 0x08).wellFormed = false := by decide

theorem test_wellFormed_takes_one_channel : (Instr.setfilt 0x80 0x08).wellFormed = true := by decide

/-- The second constraint of R7: 0x72 + 14 = 0x80. -/
theorem test_params_refuse_high_filter_base :
    { exampleParams with addrFilterBase := 0x72 }.filtersInRange = false := by decide

theorem test_params_take_top_filter_base :
    { exampleParams with addrFilterBase := 0x71 }.wellFormed = true := by decide

/-- The first constraint of R7, once for each address parameter. -/
theorem test_params_refuse_marked_addresses :
    { exampleParams with addrStatus := 0x84 }.addressesClear = false ∧
    { exampleParams with addrFaultEn := 0xA4 }.addressesClear = false ∧
    { exampleParams with addrNop := 0xA6 }.addressesClear = false ∧
    { exampleParams with addrFilterBase := 0x86 }.addressesClear = false ∧
    { exampleParams with addrFaultHi := 0x9C }.addressesClear = false ∧
    { exampleParams with addrFaultLo := 0x84 }.addressesClear = false ∧
    { exampleParams with initWrites := [(0x86, 0x08)] }.addressesClear = false := by decide

/-! ### Decoding: words written out from R54 and R56 (OP, then A, then D) -/

theorem test_decode_crc5 :
    decode (.crcIn 0b100111101100000000000000) = .ok (.crc5 0x9EC000) := by decide
theorem test_decode_rdreg : decode (.cmd 0b000_00000100_00000000) = .ok (.rdreg 0x04) := by decide
theorem test_decode_rdreg_ignores_D :
    decode (.cmd 0b000_00000100_11111111) = .ok (.rdreg 0x04) := by decide
theorem test_decode_wrreg :
    decode (.cmd 0b001_00011110_11000000) = .ok (.wrreg 0x1E 0xC0) := by decide
theorem test_decode_init : decode (.cmd 0b010_00000000_00000000) = .ok .init := by decide
theorem test_decode_refresh : decode (.cmd 0b011_00000000_00000000) = .ok .refresh := by decide
theorem test_decode_setfilt :
    decode (.cmd 0b100_00100101_00001000) = .ok (.setfilt 0x25 0x08) := by decide
theorem test_decode_getflt : decode (.cmd 0b101_00000000_00000000) = .ok .getflt := by decide
theorem test_decode_reserved :
    decode (.cmd 0b110_00000000_00000000) = .error (.reservedOp 6) ∧
    decode (.cmd 0b111_11111111_11111111) = .error (.reservedOp 7) := by decide
theorem test_decodeTableWord :
    decodeTableWord 24 0x42508 = some (.setfilt 0x25 0x08) ∧ decodeTableWord 24 0x60000 = none ∧
    decodeTableWord 24 0x9EC000 = some (.crc5 0x9EC000) := by decide

/-! ### Witnesses: for every obligation with hypotheses, a state and operands that meet them -/

/-- The replies of one clean transaction. -/
def clean (b0 b1 b2 : Byte) : TxnReplies :=
  ⟨⟨true, ⟨0, 0, 0⟩⟩, ⟨true, ⟨b0, b1, b2⟩⟩, ⟨true, ⟨0, 0, 0⟩⟩⟩

/-- An idle block whose transport will answer `qs`. -/
def answered (qs : List TxnReplies) : State :=
  idleState exampleParams 0b01 0x5A 0x11 ((repliesOf qs).map .reply)

/-- A block with `RDREG 0x04` in progress, its acquire call not answered. -/
def stalled (as : List Answer) : State :=
  { idleState exampleParams 0b01 0x5A 0x11 as with
    phase := .acquire, op := some (.rdreg 0x04), buf := ⟨0x04, 0x00, 0x0F⟩, len := 3,
    calls := [.acquire] }

theorem stalled_tail :
    (0x0F : Byte) = (crc5 ((0x04 : Byte) ++ (0x00 : Byte) ++ (0x00 : Byte))).setWidth 8 := by
  decide +kernel

theorem stalled_inv (as : List Answer) : (stalled as).Inv where
  idle_iff := by simp [stalled]
  settled := .inr rfl
  mode := rfl
  length := fun _ => rfl
  tail := fun _ => stalled_tail
  channel := fun m v i h => by cases h

theorem witness_Crc5IgnoresOnlyTheLowFiveBits : (5 ≤ 5 ∧ 5 < 24) ∧ (5 ≤ 23 ∧ 23 < 24) := by decide

theorem witness_OddErrorsAreDetected :
    Spec.passes 0x9EC003 ∧ Spec.weight 0x800000 % 2 = 1 :=
  ⟨by unfold Spec.passes; decide +kernel, by decide +kernel⟩

theorem witness_TwoBitErrorsPassOnlyAtDistance15 :
    Spec.passes 0x9EC003 ∧ (0 < 15 ∧ 15 < 24) ∧ (8 < 23 ∧ 23 < 24) :=
  ⟨by unfold Spec.passes; decide +kernel, by decide⟩

/-- T9's echo with no failed call. -/
theorem witness_EchoedFrameRaisesNoError :
    (answered [clean 0xA6 0x00 0x02]).ready = true ∧
    (answered [clean 0xA6 0x00 0x02]).willReply (repliesOf [clean 0xA6 0x00 0x02]) ∧
    (clean 0xA6 0x00 0x02).acquire.ok = true ∧ (clean 0xA6 0x00 0x02).exchange.ok = true ∧
    (clean 0xA6 0x00 0x02).release.ok = true ∧
    (clean 0xA6 0x00 0x02).exchange.rx =
      ⟨0x26 ||| 0x80, 0x00, (crc5 ((0x26 ||| 0x80 : Byte) ++ (0x00 : Byte) ++ (0x00 : Byte))).setWidth 8⟩ :=
  ⟨rfl, rfl, rfl, rfl, rfl, by decide +kernel⟩

theorem witness_DecodeAndEncodeAgree :
    decode (.cmd 0x1FFFF) = .ok (.wrreg 0xFF 0xFF) ∧ decode (.cmd 0x60000) = .error (.reservedOp 6) := by
  decide

theorem witness_ReservedOperationCodesAreRefused :
    ({ answered [] with requests := [.cmd 0x60000, .cmd 0x7FFFF] }.ready = true ∧
      (0x60000 : BitVec 19).extractLsb' 16 3 = 6) ∧
    { answered [] with requests := [.cmd 0x7FFFF] }.ready = true ∧
      (0x7FFFF : BitVec 19).extractLsb' 16 3 = 7 := by decide

theorem witness_StepRunsThePresentedInstruction :
    { answered [] with requests := [.cmd 0x00400] }.ready = true ∧
    decode (.cmd 0x00400) = .ok (.rdreg 0x04) ∧
    (answered []).ready = true ∧ (answered []).requests = [] := by decide

theorem witness_RdregPerformsOneReadTransaction :
    (answered [clean 0xA5 0x34 0x4D]).ready = true ∧
    (answered [clean 0xA5 0x34 0x4D]).willReply (repliesOf [clean 0xA5 0x34 0x4D]) := ⟨rfl, rfl⟩

theorem witness_WrregPerformsOneWriteTransaction :
    (answered [clean 0x5A 0x00 0x0D]).ready = true ∧
    (answered [clean 0x5A 0x00 0x0D]).willReply (repliesOf [clean 0x5A 0x00 0x0D]) := ⟨rfl, rfl⟩

theorem witness_DirectionMarkerIsOredIn :
    (answered [clean 0x00 0x77 0x04]).ready = true ∧
    (answered [clean 0x00 0x77 0x04]).willReply (repliesOf [clean 0x00 0x77 0x04]) := ⟨rfl, rfl⟩

theorem witness_RefreshPerformsTheNoOpWrite :
    (answered [clean 0x0F 0x80 0x18]).ready = true ∧
    (answered [clean 0x0F 0x80 0x18]).willReply (repliesOf [clean 0x0F 0x80 0x18]) := ⟨rfl, rfl⟩

theorem witness_ResultFlagsReachOnlyComm :
    (clean 0xA5 0x34 0x4D).exchange.rx =
      { clean 0xA5 0x34 0x4D with acquire := ⟨false, ⟨0, 0, 0⟩⟩ }.exchange.rx ∧
    ∃ t t', exec (.rdreg 0x04)
        { answered [] with answers := (repliesOf [clean 0xA5 0x34 0x4D]).map .reply } = .next t ∧
      exec (.rdreg 0x04)
        { answered [] with answers :=
          (repliesOf [{ clean 0xA5 0x34 0x4D with acquire := ⟨false, ⟨0, 0, 0⟩⟩ }]).map .reply } = .next t' :=
  ⟨rfl, _, _, rfl, rfl⟩

theorem witness_ReadCommandsKeepWireBreak :
    (∃ t, exec .getflt (answered [clean 0xA5 0x12 0x01, clean 0xA5 0x34 0x4D]) = .next t) ∧
    (∃ t, exec (.rdreg 0x04) (answered [clean 0xA5 0x34 0x4D]) = .next t) ∧
    (stalled [.silent]).op = some (.rdreg 0x04) ∧ Spec.onlyReads (.rdreg 0x04) = true ∧
    ∃ t, step (stalled [.silent]) = .next t :=
  ⟨⟨_, rfl⟩, ⟨_, rfl⟩, rfl, rfl, ⟨_, rfl⟩⟩

theorem witness_GetfltCombinesTwoReads :
    (answered [clean 0xA5 0x12 0x01, clean 0xA5 0x34 0x4D]).ready = true ∧
    (answered [clean 0xA5 0x12 0x01, clean 0xA5 0x34 0x4D]).willReply
      (repliesOf [clean 0xA5 0x12 0x01, clean 0xA5 0x34 0x4D]) := ⟨rfl, rfl⟩

/-- Masks with one bit, at either end, and with all. -/
theorem witness_SetfiltWritesEverySelectedChannel :
    ((answered [clean 0x0F 0x00 0x19]).ready = true ∧
      (answered [clean 0x0F 0x00 0x19]).willReply (repliesOf [clean 0x0F 0x00 0x19]) ∧
      (Spec.filterWrites exampleParams 0x01 0x08).length = 1 ∧
      (Spec.filterWrites exampleParams 0x80 0x08).length = 1) ∧
    (answered (List.replicate 8 (clean 0x0F 0x00 0x19))).willReply
      (repliesOf (List.replicate 8 (clean 0x0F 0x00 0x19))) ∧
    (Spec.filterWrites exampleParams 0xFF 0x08).length = 8 := by
  refine ⟨⟨rfl, rfl, ?_, ?_⟩, rfl, ?_⟩ <;> decide

/-- P5a: the write branch, and P5b: the skip. -/
theorem witness_InitConfiguresAndReadsBack :
    ((Spec.initWrites exampleParams 0x40).length = 3 ∧
      (answered (List.replicate 5 (clean 0x3C 0x40 0x0F))).willReply
        (repliesOf (List.replicate 5 (clean 0x3C 0x40 0x0F)))) ∧
    (Spec.initWrites exampleParams 0x00).length = 0 ∧
    (answered [clean 0x3C 0x00 0x15, clean 0x3C 0xC0 0x0E]).ready = true ∧
    (answered [clean 0x3C 0x00 0x15, clean 0x3C 0xC0 0x0E]).willReply
      (repliesOf [clean 0x3C 0x00 0x15, clean 0x3C 0xC0 0x0E]) := by
  refine ⟨⟨?_, rfl⟩, ?_, rfl, rfl⟩ <;> decide

/-- P5b. -/
theorem witness_InitLeavesAConfiguredChipAlone :
    (answered [clean 0x3C 0x00 0x15, clean 0x3C 0xC0 0x0E]).ready = true ∧
    exampleParams.initWriteIfPor = true ∧ (0x00 : Byte) &&& exampleParams.porMask = 0x00 ∧
    (answered [clean 0x3C 0x00 0x15, clean 0x3C 0xC0 0x0E]).willReply
      (repliesOf [clean 0x3C 0x00 0x15, clean 0x3C 0xC0 0x0E]) := ⟨rfl, rfl, rfl, rfl⟩

theorem witness_FilterAddressesAreBasePlusTwiceTheIndex :
    exampleParams.filtersInRange = true ∧
    { exampleParams with addrFilterBase := 0x71 }.filtersInRange = true := by decide

theorem witness_BusyBlockRefusesCommands :
    Spec.isCommand (.wrreg 0 0) = true ∧ (stalled []).ready = false := by decide

theorem witness_UnansweredCallStallsTheBlock :
    (stalled [.silent, .silent]).Inv ∧ (stalled [.silent, .silent]).ready = false ∧
    ∀ k, k < 2 → (stalled [.silent, .silent]).answerAt k = .silent :=
  ⟨stalled_inv _, rfl, fun k hk => by
    match k, hk with
    | 0, _ => rfl
    | 1, _ => rfl⟩

/-- A read whose exchange is left unanswered once. -/
theorem witness_StallOnlyDelaysACommand :
    (idleState exampleParams 0 0 0 ([.reply ⟨true, ⟨0, 0, 0⟩⟩] ++ .silent :: [])).ready = true ∧
    Answer.silent ∉ [Answer.reply ⟨true, ⟨0, 0, 0⟩⟩] ∧
    ∃ u, exec (.rdreg 0x04)
        (idleState exampleParams 0 0 0 ([.reply ⟨true, ⟨0, 0, 0⟩⟩] ++ .silent :: [])) = .next u ∧
      u.ready = false :=
  ⟨rfl, by decide, _, rfl, by decide +kernel⟩

theorem witness_AnsweredCommandsComplete :
    (answered [clean 0xA5 0x34 0x4D]).ready = true ∧ (Instr.rdreg 0x04).wellFormed = true ∧
    ∀ k, k < 3 * Spec.maxTxns exampleParams (.rdreg 0x04) →
      (answered [clean 0xA5 0x34 0x4D]).answerAt k ≠ .silent := by
  refine ⟨rfl, rfl, fun k hk => ?_⟩
  match k, hk with
  | 0, _ => decide
  | 1, _ => decide
  | 2, _ => decide

theorem witness_ErrorsOnlyAccumulate :
    ((stalled [.silent]).ready = false ∧ ∃ t, step (stalled [.silent]) = .next t) ∧
    (∃ t, exec (.rdreg 0x04) (answered [clean 0 0 0]) = .next t) ∧
    ∃ t, exec (.wrreg 0x04 0x00) (answered [clean 0 0 0]) = .next t :=
  ⟨⟨rfl, _, rfl⟩, ⟨_, rfl⟩, _, rfl⟩

/-- A REFRESH that clears COMM. -/
theorem witness_OnlyLogicalOperationsClearErrors :
    ∃ t, step { answered [clean 0x0F 0x80 0x18] with requests := [.cmd 0x30000] } = .next t ∧
      (0b01 : BitVec 2) ||| t.err ≠ t.err :=
  ⟨_, rfl, by decide +kernel⟩

theorem witness_UncheckedModeNeverSetsInteg :
    { answered [clean 0 0 0] with crcEn := false, err := 0b10, requests := [.cmd 0] }.crcEn = false ∧
    (∃ t, exec (.rdreg 0x00) { answered [clean 0 0 0] with crcEn := false, err := 0b10 } = .next t ∧
      ErrKind.isSet exampleParams .integ t.err = true) ∧
    ∃ t, step { answered [clean 0 0 0] with crcEn := false, err := 0b10, requests := [.cmd 0] } = .next t ∧
      ErrKind.isSet exampleParams .integ t.err = true :=
  ⟨rfl, ⟨_, rfl, by decide +kernel⟩, _, rfl, by decide +kernel⟩

theorem witness_ErrorKindsHaveTheAssignedBits :
    exampleParams.commBit = 0 ∧ { exampleParams with commBit := 1 }.commBit = 1 := ⟨rfl, rfl⟩

theorem witness_ModeIsImmutable : ∃ t, step (stalled [.silent]) = .next t := ⟨_, rfl⟩

theorem witness_CommandsKeepModePortsAndHistory :
    Spec.isCommand .getflt = true ∧ ∃ t, exec .getflt (answered []) = .next t := ⟨rfl, _, rfl⟩

theorem witness_ResponseIsHeldUntilCompletion :
    (stalled [.silent]).Inv ∧ ∃ t, step (stalled [.silent]) = .next t ∧ t.ready = false :=
  ⟨stalled_inv _, _, rfl, by decide +kernel⟩

theorem witness_OnlyAnIdleBlockIsVisible :
    ((answered []).phase = .idle ∧ (answered []).op = none) ∧ (stalled []).phase ≠ .idle := by
  decide

theorem witness_EveryStepKeepsTheInvariant :
    (stalled [.silent]).Inv ∧ ∃ t, step (stalled [.silent]) = .next t :=
  ⟨stalled_inv _, _, rfl⟩

theorem witness_EveryStepKeepsTheLinkOrder :
    (stalled [.reply ⟨true, ⟨0, 0, 0⟩⟩, .silent]).Inv ∧
    (stalled [.reply ⟨true, ⟨0, 0, 0⟩⟩, .silent]).LinkInv ∧
    ∃ t, step (stalled [.reply ⟨true, ⟨0, 0, 0⟩⟩, .silent]) = .next t :=
  ⟨stalled_inv _, ⟨.acquire, rfl, .inl rfl⟩, _, rfl⟩

theorem witness_EverySentFrameCarriesItsChecksum :
    (stalled [.reply ⟨true, ⟨0, 0, 0⟩⟩, .silent]).Inv ∧
    (stalled [.reply ⟨true, ⟨0, 0, 0⟩⟩, .silent]).WireInv ∧
    ∃ t, step (stalled [.reply ⟨true, ⟨0, 0, 0⟩⟩, .silent]) = .next t :=
  ⟨stalled_inv _, fun chip tx h => by simp [stalled] at h, _, rfl⟩

/-! ### The interface at reset -/

/-- The next step after `withFetchWord` runs the word's instruction. -/
theorem test_withFetchWord :
    step (State.reset.withFetchWord 24 0x42508) = exec (.setfilt 0x25 0x08) State.reset := by rfl

end Sys2Proof.Machine.Tests
end

/-! The mode and the parameters are written by no phase, so by no command and no step (R12).
One lemma for each function of the sequencer, from the phases up to the step. -/

namespace Sys2Proof.Machine

/-! ### The mode through one transaction -/

@[simp] theorem buildPhase_crcEn (s : State) : (buildPhase s).crcEn = s.crcEn := by
  obtain h | ⟨_, _, _, h⟩ := buildPhase_cases s <;> simp [h]

@[simp] theorem acquirePhase_crcEn (s : State) : (acquirePhase s).crcEn = s.crcEn := by
  obtain h | ⟨_, _, h⟩ | ⟨_, _, _, h⟩ := acquirePhase_cases s <;> simp [h, acquired]

@[simp] theorem exchangePhase_crcEn (s : State) : (exchangePhase s).crcEn = s.crcEn := by
  obtain h | ⟨_, _, h⟩ | ⟨_, _, _, h⟩ := exchangePhase_cases s <;> simp [h, received]

@[simp] theorem releasePhase_crcEn (s : State) : (releasePhase s).crcEn = s.crcEn := by
  obtain h | ⟨_, _, h⟩ | ⟨_, _, _, h⟩ := releasePhase_cases s <;> simp [h, released]

@[simp] theorem verifyPhase_crcEn (s : State) : (verifyPhase s).crcEn = s.crcEn := by
  obtain h | ⟨_, h⟩ := verifyPhase_cases s <;> simp [h]

@[simp] theorem advance_crcEn (p : Progress) (s : State) : (advance p s).crcEn = s.crcEn := by
  obtain ⟨_, h, _⟩ | ⟨_, _, h⟩ := advance_cases p s <;> simp [h]

@[simp] theorem updatePhase_crcEn (s : State) : (updatePhase s).crcEn = s.crcEn := by
  obtain h | ⟨_, _, _, h⟩ := updatePhase_cases s <;> simp [h]

/-- No phase writes the mode. -/
theorem runTxn_crcEn (s : State) : (runTxn s).crcEn = s.crcEn := by
  simp [runTxn]

/-! ### Mode and parameters through a command and a step -/

@[simp] theorem runBlock_crcEn (s : State) : (runBlock s).crcEn = s.crcEn :=
  runBlock_keeps (P := fun t => t.crcEn = s.crcEn) (fun t ht => (runTxn_crcEn t).trans ht) s rfl

@[simp] theorem runBlock_params (s : State) : (runBlock s).params = s.params :=
  runBlock_keeps (P := fun t => t.params = s.params) (fun t ht => (runTxn_params t).trans ht) s rfl

/-- No instruction writes the mode or a parameter, whether it completes or stalls. -/
theorem exec_keeps_mode {i : Instr} {s t : State} (h : exec i s = .next t) :
    t.crcEn = s.crcEn ∧ t.params = s.params := by
  obtain ⟨w, _, rfl⟩ | ⟨_, p, c, _, rfl⟩ := exec_cases h
  · exact ⟨rfl, rfl⟩
  · cases c <;> simp

/-- A step waits, runs the instruction presented or runs on, and none of the three writes the
mode or a parameter. -/
theorem step_keeps_mode {s t : State} (h : step s = .next t) :
    t.crcEn = s.crcEn ∧ t.params = s.params := by
  obtain ⟨_, _, rfl⟩ | ⟨_, _, _, i, _, _, hi⟩ | ⟨_, rfl⟩ := step_cases h
  · exact ⟨rfl, rfl⟩
  · simpa using exec_keeps_mode hi
  · exact ⟨runBlock_crcEn s, runBlock_params s⟩

/-- Settles O33: reset takes the mode from the parameter, and no step writes either (R12). -/
theorem modeIsImmutable : Obligations.ModeIsImmutable :=
  ⟨rfl, fun _ _ h => step_keeps_mode h⟩

end Sys2Proof.Machine

/-! A transport call left unanswered stalls the block (R44).  A block with a command in progress
waits at a call between two steps; a silent answer moves the transport port and nothing else, so
the wait goes on, and every command is refused, for as long as the answers are silent. -/

namespace Sys2Proof.Machine

/-! ### The block waiting at a call -/

/-- A command is in progress and the sequencer is in a phase that lasts until a transport call
returns (R17, R44). -/
def State.waiting (s : State) : Prop := s.phase.awaits = true ∧ ∃ p, s.op = some p

theorem Phase.awaits_iff (ph : Phase) :
    ph.awaits = true ↔ ph = .acquire ∨ ph = .exchange ∨ ph = .release := by
  cases ph <;> simp [Phase.awaits]

/-- Between two steps a busy block is waiting at a call: it is not idle, so it is settled at one
and its operation is in progress. -/
theorem State.Inv.waiting {s : State} (hs : s.Inv) (hr : s.ready = false) : s.waiting := by
  have hop : s.op ≠ none := fun h => by
    have hidle : s.ready = true := (ready_iff s).2 ⟨hs.idle_iff.2 h, h⟩
    rw [hidle] at hr
    cases hr
  have hph : s.phase ≠ .idle := fun h => hop (hs.idle_iff.1 h)
  exact ⟨hs.settled.resolve_left hph, Option.ne_none_iff_exists'.1 hop⟩

theorem State.waiting.not_ready {s : State} (hs : s.waiting) : s.ready = false := by
  obtain ⟨_, p, hop⟩ := hs
  exact not_ready_of_op hop

/-- Taking answers from the port leaves the wait as it is. -/
theorem State.waiting.dropAnswers {s : State} (hs : s.waiting) (n : Nat) :
    (s.dropAnswers n).waiting := hs

/-! ### A silent answer -/

/-- The block running on goes no further than the transaction that does not get its answer. -/
theorem runBlock_silent {s : State} (hs : s.waiting) (h : s.answerAt 0 = .silent) :
    runBlock s = s.dropAnswers 1 := by
  obtain ⟨hph, p, hop⟩ := hs
  have htxn : runTxn s = s.dropAnswers 1 := runTxn_silent ((Phase.awaits_iff _).1 hph) h
  obtain ⟨n, hn⟩ := Nat.exists_eq_succ_of_ne_zero (txnsLeft_pos p s.params).ne'
  simp only [runBlock, hop, hn, runTxns, htxn]
  split
  · rename_i hbuild
    have hph' : s.phase = .build := hbuild
    rw [hph'] at hph
    cases hph
  · rfl

theorem step_silent {s : State} (hs : s.waiting) (h : s.answerAt 0 = .silent) :
    step s = .next (s.dropAnswers 1) := by
  simp [step, hs.not_ready, runBlock_silent hs h]

/-! ### Runs and refusals -/

theorem core_run_succ {s t : State} (h : step s = .next t) (n : Nat) :
    Sys2Proof.core.run (n + 1) s = Sys2Proof.core.run n t := by
  have hcore : Sys2Proof.core.step s = .next t := h
  simp only [Host.Core.run, hcore]

/-- A run over silent answers only moves the transport port past them. -/
theorem core_run_silent (n : Nat) {s : State} (hs : s.waiting)
    (h : ∀ k, k < n → s.answerAt k = .silent) :
    Sys2Proof.core.run n s = .next (s.dropAnswers n) := by
  induction n generalizing s with
  | zero => rw [dropAnswers_zero]; rfl
  | succ n ih =>
    have hrest : ∀ k, k < n → (s.dropAnswers 1).answerAt k = .silent := fun k hk => by
      rw [dropAnswers_answerAt]
      exact h (1 + k) (by omega)
    calc Sys2Proof.core.run (n + 1) s
        = Sys2Proof.core.run n (s.dropAnswers 1) :=
          core_run_succ (step_silent hs (h 0 n.succ_pos)) n
      _ = .next ((s.dropAnswers 1).dropAnswers n) := ih (hs.dropAnswers 1) hrest
      _ = .next (s.dropAnswers (n + 1)) := by rw [dropAnswers_dropAnswers, Nat.add_comm]

theorem accept_busy {s : State} (hr : s.ready = false) (p : Progress) (entry : State → State) :
    accept p entry s = .refused .busy := by
  simp [accept, hr]

/-- A busy block refuses every command, SETFILT before it looks at its mask. -/
theorem exec_command_busy {i : Instr} {s : State} (hi : Spec.isCommand i = true)
    (hr : s.ready = false) : exec i s = .refused .busy := by
  cases i with
  | crc5 w => cases hi
  | rdreg a => exact accept_busy hr _ _
  | wrreg a d => exact accept_busy hr _ _
  | init => exact accept_busy hr _ _
  | refresh => exact accept_busy hr _ _
  | setfilt m v => simp [exec, execSetfilt, hr]
  | getflt => exact accept_busy hr _ _

/-- Settles O27: the invariant puts a busy block at a call, the run over the silent answers moves
the port alone, and the block it leaves still waits there, so it refuses every command (R44). -/
theorem unansweredCallStallsTheBlock : Obligations.UnansweredCallStallsTheBlock := by
  intro n s hinv hr hsilent
  have hs : s.waiting := hinv.waiting hr
  exact ⟨core_run_silent n hs hsilent,
    fun _ hi => exec_command_busy hi (hs.dropAnswers n).not_ready⟩

end Sys2Proof.Machine

/-! The checksum engine's own port: a pure function of the payload bits, evaluated in every state
of the block (R58, R70, R71). -/

namespace Sys2Proof.Machine

/-- CRC5 is the one instruction that no state of the block refuses or delays (R58). -/
theorem exec_crc5 (w : BitVec 24) (s : State) :
    exec (.crc5 w) s = .next { s with crcOut := crc5 w } := rfl

/-- Replacing the low five bits of a word leaves its 19 payload bits, all that CRC5 sees (R71). -/
theorem crc5_replace_low (w : BitVec 24) (c : BitVec 5) :
    crc5 (w.extractLsb' 5 19 ++ c) = crc5 w :=
  crc5_congr BitVec.extractLsb'_append_eq_left

/-- Settles O1: the port's answer is CRC5 of the word in every state, and two words that differ
in CRC_IN[4:0] alone have the same payload (R58). -/
theorem checksumPortAnswersCrc5 : Obligations.ChecksumPortAnswersCrc5 := by
  intro w c s
  have hport : exec (.crc5 (w.extractLsb' 5 19 ++ c)) s =
      .next { s with crcOut := crc5 (w.extractLsb' 5 19 ++ c) } := exec_crc5 _ s
  rw [crc5_replace_low] at hport
  exact ⟨exec_crc5 w s, hport⟩

end Sys2Proof.Machine

/-! Which bits of its input CRC5 depends on (R71, R76).  The stepwise process is linear over GF(2),
so flipping bits of a word adds to its checksum a sum that does not depend on the word (R74). -/

namespace Sys2Proof.Machine

/-! ### The shift register is linear over GF(2) -/

/-- The register is reduced when its top bit is set, and the top bit of a sum is the sum of the top
bits: two reductions cancel. -/
theorem condXor_xor (r r' : BitVec 6) : condXor (r ^^^ r') = condXor r ^^^ condXor r' := by
  have hleft : r ^^^ r' ^^^ poly = r ^^^ poly ^^^ r' := by ac_rfl
  have hright : r ^^^ r' ^^^ poly = r ^^^ (r' ^^^ poly) := by ac_rfl
  have hboth : r ^^^ r' = r ^^^ poly ^^^ (r' ^^^ poly) :=
    calc r ^^^ r' = r ^^^ r' ^^^ (poly ^^^ poly) := by simp
      _ = r ^^^ poly ^^^ (r' ^^^ poly) := by ac_rfl
  simp only [condXor, BitVec.getLsbD_xor]
  cases r.getLsbD 5 <;> cases r'.getLsbD 5
  case false.false => rfl
  case false.true => exact hright
  case true.false => exact hleft
  case true.true => exact hboth

theorem crcStep_xor (r r' : BitVec 6) (b b' : Bool) :
    crcStep (r ^^^ r') (b ^^ b') = crcStep r b ^^^ crcStep r' b' := by
  have hshift : (r ^^^ r').extractLsb' 0 5 ++ BitVec.ofBool (b ^^ b') =
      (r.extractLsb' 0 5 ++ BitVec.ofBool b) ^^^ (r'.extractLsb' 0 5 ++ BitVec.ofBool b') := by
    rw [BitVec.extractLsb'_xor, ← BitVec.ofBool_xor_ofBool, BitVec.xor_append]
  exact (congrArg condXor hshift).trans (condXor_xor _ _)

theorem crcLoop_xor (v v' : BitVec 24) (n : Nat) (r r' : BitVec 6) :
    crcLoop (v ^^^ v') n (r ^^^ r') = crcLoop v n r ^^^ crcLoop v' n r' := by
  induction n generalizing r r' with
  | zero => rfl
  | succ n ih => simp only [crcLoop, BitVec.getLsbD_xor, crcStep_xor, ih]

/-! ### The affine law -/

/-- Steps 3 to 5 of R70 on a word that need not carry the marker. -/
def polyRem (v : BitVec 24) : BitVec 5 :=
  (crcLoop v 18 (condXor (v.extractLsb' 18 6))).extractLsb' 0 5

theorem crc5_eq_polyRem (w : BitVec 24) : crc5 w = polyRem (markWord w) := rfl

theorem polyRem_xor (v v' : BitVec 24) : polyRem (v ^^^ v') = polyRem v ^^^ polyRem v' := by
  simp only [polyRem, BitVec.extractLsb'_xor, condXor_xor, crcLoop_xor]

/-- A sum of two marked words has lost the marker; the marked zero word puts it back. -/
theorem markWord_xor (a b : BitVec 24) :
    markWord (a ^^^ b) = markWord a ^^^ markWord b ^^^ markWord 0 := by
  calc markWord (a ^^^ b)
      = (a.extractLsb' 5 19 ^^^ b.extractLsb' 5 19 ^^^ (0 : BitVec 24).extractLsb' 5 19) ++
          (marker ^^^ marker ^^^ marker) := by simp [markWord, BitVec.extractLsb'_xor]
    _ = markWord a ^^^ markWord b ^^^ markWord 0 := by
        rw [← BitVec.xor_append, ← BitVec.xor_append]; rfl

/-- An all-zero payload leaves only the marker, which is its own remainder (R70). -/
theorem crc5_zero : crc5 0 = 0b00111 := by decide +kernel

/-- CRC5 is affine: the checksum of a sum of words is the sum of theirs and of the marker (R74). -/
theorem crc5_xor (a b : BitVec 24) : crc5 (a ^^^ b) = crc5 a ^^^ crc5 b ^^^ 0b00111 := by
  calc crc5 (a ^^^ b)
      = polyRem (markWord a ^^^ markWord b ^^^ markWord 0) := by
        rw [crc5_eq_polyRem, markWord_xor]
    _ = crc5 a ^^^ crc5 b ^^^ crc5 0 := by
        simp only [polyRem_xor, crc5_eq_polyRem]
    _ = crc5 a ^^^ crc5 b ^^^ 0b00111 := by rw [crc5_zero]

/-- Flipping the bits of `e` keeps the checksum exactly when `e` has the checksum of the all-zero
payload. -/
theorem crc5_xor_eq_self_iff (w e : BitVec 24) : crc5 (w ^^^ e) = crc5 w ↔ crc5 e = 0b00111 := by
  rw [crc5_xor, BitVec.xor_assoc]
  constructor
  · intro h
    have hzero : crc5 e ^^^ 0b00111 = 0 :=
      (BitVec.xor_right_inj (crc5 w)).1 (h.trans BitVec.xor_zero.symm)
    exact BitVec.xor_eq_zero_iff.1 hzero
  · intro h
    rw [h, BitVec.xor_self, BitVec.xor_zero]

/-! ### The low five bits and the other nineteen -/

/-- Masking the low five bits away and putting others there keeps the payload (R71). -/
theorem payload_mask_or (w : BitVec 24) (c : BitVec 5) :
    ((w &&& 0xFFFFE0) ||| c.setWidth 24).extractLsb' 5 19 = w.extractLsb' 5 19 := by
  have hmask : (0xFFFFE0 : BitVec 24).extractLsb' 5 19 = BitVec.allOnes 19 := by decide
  have hlow : (c.setWidth 24).extractLsb' 5 19 = 0 := by
    revert c
    decide
  rw [BitVec.extractLsb'_or, BitVec.extractLsb'_and, hmask, hlow, BitVec.and_allOnes]
  exact BitVec.or_zero

/-- No payload bit has remainder 0: the entries S[5..23] of R74 are all nonzero. -/
theorem crc5_single_bit_ne : ∀ k, k < 24 → 5 ≤ k → crc5 ((1 : BitVec 24) <<< k) ≠ 0b00111 := by
  decide +kernel

/-- Settles O2: the low five bits are not in the payload, all that CRC5 sees (R71); by the affine
law a flipped bit is seen in every word or in none, and each of the nineteen is seen in the word
0 (R76 (a)). -/
theorem crc5IgnoresOnlyTheLowFiveBits : Obligations.Crc5IgnoresOnlyTheLowFiveBits := by
  intro w
  constructor
  · exact fun c => crc5_congr (payload_mask_or w c)
  · intro k hlow hhigh hsame
    exact crc5_single_bit_ne k hhigh hlow ((crc5_xor_eq_self_iff w _).1 hsame)

end Sys2Proof.Machine

/-! The two primitive commands (41_transaction.md section 3).  Each is one transaction of the
sequencer, which is `Transact` of R81, and completes after it: RDREG with received byte 1 (R90),
WRREG with no response (R91). -/

namespace Sys2Proof.Machine

/-! ### A command that is one transaction -/

/-- A block that comes to rest in IDLE after the transaction in progress makes no other one. -/
theorem runBlock_eq_runTxn {s : State} {p : Progress} (hop : s.op = some p)
    (hidle : (runTxn s).phase = .idle) : runBlock s = runTxn s := by
  obtain ⟨n, hn⟩ := Nat.exists_eq_succ_of_ne_zero (txnsLeft_pos p s.params).ne'
  simp [runBlock, hop, hn, runTxns, hidle]

/-- On an idle block completing changes the response alone. -/
theorem complete_of_ready {s : State} (hs : s.ready = true) (r : Response) :
    complete r s = { s with response := r } := by
  obtain ⟨hidle, hnone⟩ := (ready_iff s).1 hs
  simp only [complete, ← hidle, ← hnone]

/-- A command begun on an idle block whose transport answers, and which completes with `r` on
what its first transaction leaves in BUF and ERR, is that one transaction. -/
theorem runBlock_goTo_completes {s : State} {p : Progress} {q : TxnReplies} {r : Response}
    (hs : s.ready = true) (h : s.willReply (repliesOf [q]))
    (hdone : ∀ u : State, u.buf = (Spec.transact (p.txn s.params) q s).buf →
      u.err = (Spec.transact (p.txn s.params) q s).err → advance p u = complete r u) :
    runBlock (goTo p s) =
      ({ Spec.transact (p.txn s.params) q s with response := r } : State).dropAnswers 3 := by
  have hreply : (goTo p s).willReply (repliesOf [q]) := willReply_congr rfl rfl h
  have htxn : runTxn (goTo p s) =
      complete r ((Spec.transact (p.txn s.params) q s).dropAnswers 3) :=
    (runTxn_eq_transact rfl rfl hreply).trans (hdone _ rfl rfl)
  have hidle : (runTxn (goTo p s)).phase = .idle := by rw [htxn, complete_phase]
  have hready : ((Spec.transact (p.txn s.params) q s).dropAnswers 3).ready = true := hs
  calc runBlock (goTo p s)
      = runTxn (goTo p s) := runBlock_eq_runTxn rfl hidle
    _ = complete r ((Spec.transact (p.txn s.params) q s).dropAnswers 3) := htxn
    _ = ({ Spec.transact (p.txn s.params) q s with response := r } : State).dropAnswers 3 :=
        complete_of_ready hready r

theorem accept_ready {s : State} (hs : s.ready = true) (p : Progress) (entry : State → State) :
    accept p entry s = .next (runBlock (goTo p (entry s))) := by
  simp [accept, hs]

/-! ### What `Transact` leaves and sends -/

/-- Byte 1 is received in both modes: it is the value `Transact` returns (R81). -/
@[simp] theorem transact_buf_b1 (x : Txn) (q : TxnReplies) (s : State) :
    (Spec.transact x q s).buf.b1 = q.exchange.rx.b1 := by
  cases hc : s.crcEn <;> simp [Spec.transact, hc]

/-- In both modes the frame on the link begins with the two bytes built of the arguments (R82,
R83). -/
theorem transact_calls (x : Txn) (q : TxnReplies) (s : State) :
    ∃ tx, (Spec.transact x q s).calls = s.calls ++
      [.acquire, .exchange s.params.chipAddr (byte0 x :: byte1 x :: tx), .release] := by
  refine ⟨if s.crcEn then [(crc5 (byte0 x ++ byte1 x ++ (0x00 : Byte))).setWidth 8] else [], ?_⟩
  obtain ⟨dir, a, d⟩ := x
  cases hc : s.crcEn <;> cases dir <;> simp [Spec.transact, byte0, byte1, hc]

/-- The marker is ORed in, so a write address that carries it already is sent the same (R83). -/
theorem transact_wr_marker (a d : Byte) (q : TxnReplies) (s : State) :
    Spec.transact ⟨.wr, a ||| 0x80, d⟩ q s = Spec.transact ⟨.wr, a, d⟩ q s := by
  simp [Spec.transact, BitVec.or_assoc]

/-! ### RDREG and WRREG -/

/-- RDREG on a transport that answers (R90). -/
theorem exec_rdreg_replies {s : State} {q : TxnReplies} (a : Byte) (hs : s.ready = true)
    (h : s.willReply (repliesOf [q])) :
    exec (.rdreg a) s =
      .next ({ Spec.transact ⟨.rd, a, 0x00⟩ q s with
        response := .byte q.exchange.rx.b1 }.dropAnswers 3) := by
  have hdone : ∀ u : State, u.buf = (Spec.transact ⟨.rd, a, 0x00⟩ q s).buf →
      u.err = (Spec.transact ⟨.rd, a, 0x00⟩ q s).err →
      advance (.rdreg a) u = complete (.byte q.exchange.rx.b1) u := by
    intro u hbuf _
    simp [advance, hbuf]
  exact (accept_ready hs _ _).trans (congrArg _ (runBlock_goTo_completes hs h hdone))

/-- WRREG on a transport that answers (R91). -/
theorem exec_wrreg_replies {s : State} {q : TxnReplies} (a d : Byte) (hs : s.ready = true)
    (h : s.willReply (repliesOf [q])) :
    exec (.wrreg a d) s =
      .next ({ Spec.transact ⟨.wr, a, d⟩ q s with response := .none }.dropAnswers 3) :=
  (accept_ready hs _ _).trans
    (congrArg _ (runBlock_goTo_completes (p := .wrreg a d) hs h fun _ _ _ => rfl))

/-- Operation code 0 is RDREG of the field A (R56). -/
theorem decode_rdreg (a d : Byte) : decode (.cmd (cmdWord 0b000 a d)) = .ok (.rdreg a) := by
  simp [decode, decodeCmd]

/-- Operation code 1 is WRREG of the fields A and D (R56). -/
theorem decode_wrreg (a d : Byte) : decode (.cmd (cmdWord 0b001 a d)) = .ok (.wrreg a d) := by
  simp [decode, decodeCmd]

/-- Settles O14: the fields of the word are those it was made of, and the command completes after
one read with the byte `Transact` returns (R90). -/
theorem rdregPerformsOneReadTransaction : Obligations.RdregPerformsOneReadTransaction :=
  ⟨decode_rdreg, fun _ a _ hs h => exec_rdreg_replies a hs h⟩

/-- Settles O15: the fields of the word are those it was made of, and the command completes after
one write with no response (R91). -/
theorem wrregPerformsOneWriteTransaction : Obligations.WrregPerformsOneWriteTransaction :=
  ⟨decode_wrreg, fun _ a d _ hs h => exec_wrreg_replies a d hs h⟩

/-- Settles O16: both write addresses give one `Transact`, because ORing the marker in twice is
ORing it in once; a read sends its address whole, and the direction, not bit 7, decides what
`Transact` does with WB (R83). -/
theorem directionMarkerIsOredIn : Obligations.DirectionMarkerIsOredIn := by
  intro s a d q hs h
  constructor
  · obtain ⟨tx, hcalls⟩ := transact_calls ⟨.wr, a, d⟩ q s
    have hmarked := exec_wrreg_replies (a ||| 0x80) d hs h
    rw [transact_wr_marker] at hmarked
    have hbit7 : (a ||| 0x80).getLsbD 7 = true := by simp
    exact ⟨_, tx, exec_wrreg_replies a d hs h, hmarked, hbit7, hcalls⟩
  · obtain ⟨tx, hcalls⟩ := transact_calls ⟨.rd, a, 0x00⟩ q s
    have hwhole : byte0 ⟨.rd, a, 0x00⟩ = a := BitVec.or_zero
    rw [hwhole] at hcalls
    exact ⟨_, tx, exec_rdreg_replies a hs h, rfl, rfl, hcalls⟩

end Sys2Proof.Machine

/-! The four logical operations (42_operations.md).  Each clears `ERR` and then makes its
transactions one after another (R100).  One rule runs a block through one answered transaction; the
operations are inductions over their transactions by that rule. -/

namespace Sys2Proof.Machine

/-! ### The block runs on from one transaction to the next -/

/-- Allowing more transactions than the command has left changes nothing. -/
theorem runTxns_add (n k : Nat) {s : State} {p : Progress} (hop : s.op = some p)
    (hph : s.phase ≠ .idle) (hn : p.txnsLeft s.params ≤ n) :
    runTxns (n + k) s = runTxns n s := by
  induction n generalizing s p with
  | zero => exact absurd (txnsLeft_pos p s.params) (by omega)
  | succ n ih =>
    rw [Nat.add_right_comm]
    simp only [runTxns]
    obtain ⟨hwait, _⟩ | ⟨p', hbuild, hop', hless⟩ | ⟨hidle, _⟩ := runTxn_cases hop hph
    · split
      · rename_i hbuild
        rw [hbuild] at hwait
        cases hwait
      · rfl
    · simp only [hbuild]
      exact ih hop' (by simp [hbuild]) (by rw [runTxn_params]; omega)
    · simp only [hidle]

theorem runBlock_of_op_none {s : State} (h : s.op = none) : runBlock s = s := by
  simp [runBlock, h]

/-- A transaction that does not end at an unanswered call is the first part of the block's run. -/
theorem runBlock_runTxn {s : State} {p : Progress} (hop : s.op = some p) (hph : s.phase ≠ .idle)
    (hdone : (runTxn s).phase.awaits = false) : runBlock s = runBlock (runTxn s) := by
  obtain ⟨hwait, _⟩ | ⟨p', hbuild, hop', hless⟩ | ⟨hidle, hnone⟩ := runTxn_cases hop hph
  · rw [hdone] at hwait
    cases hwait
  · obtain ⟨k, hk⟩ : ∃ k, p.txnsLeft s.params = p'.txnsLeft s.params + k + 1 :=
      ⟨_, by rw [Nat.add_right_comm, Nat.add_sub_cancel' hless]⟩
    have hbusy : (runTxn s).phase ≠ .idle := by simp [hbuild]
    have hleft : p'.txnsLeft (runTxn s).params = p'.txnsLeft s.params := by rw [runTxn_params]
    calc runBlock s
        = runTxns (p'.txnsLeft s.params + k) (runTxn s) := by
          simp only [runBlock, hop, hk, runTxns, hbuild]
      _ = runTxns (p'.txnsLeft s.params) (runTxn s) := runTxns_add _ k hop' hbusy hleft.le
      _ = runBlock (runTxn s) := by simp only [runBlock, hop', hleft]
  · rw [runBlock_of_op_none hnone, runBlock_eq_runTxn hop hidle]

/-- How a command goes on does not depend on where the sequencer stands. -/
theorem advance_of_sequencer (p : Progress) (s : State) (ph : Phase) (o : Option Progress) :
    advance p { s with phase := ph, op := o } = advance p s := by
  cases p with
  | initStatus =>
    simp only [advance, initBranch]
    cases (if takesWriteBranch s.params s.buf.b1 then s.params.initWrites else []) <;> rfl
  | initWrite st a v rest => cases rest <;> rfl
  | setfilt m v i =>
    simp only [advance, setfiltNext]
    cases nextChannel m (i.val + 1) <;> rfl
  | rdreg a => rfl
  | wrreg a d => rfl
  | initReadback st => rfl
  | refresh => rfl
  | getfltHi => rfl
  | getfltLo hi => rfl

theorem advance_phase_not_awaits (p : Progress) (s : State) :
    (advance p s).phase.awaits = false := by
  obtain ⟨_, h, _⟩ | ⟨_, _, h⟩ := advance_cases p s <;> rw [h] <;> rfl

/-! ### Transactions whose answers are taken from the port -/

/-- The transactions of `xs` made one after another (R81, R100), their answers taken from the
transport port. -/
def served (xs : List (Txn × TxnReplies)) (s : State) : State :=
  (Spec.transacts xs s).dropAnswers (3 * xs.length)

@[simp] theorem served_nil (s : State) : served [] s = s := dropAnswers_zero s

theorem transacts_dropAnswers (xs : List (Txn × TxnReplies)) (s : State) (n : Nat) :
    Spec.transacts xs (s.dropAnswers n) = (Spec.transacts xs s).dropAnswers n := by
  induction xs generalizing s with
  | nil => rfl
  | cons x xs ih => exact ih (Spec.transact x.1 x.2 s)

theorem served_append (xs ys : List (Txn × TxnReplies)) (s : State) :
    served (xs ++ ys) s = served ys (served xs s) := by
  have hsplit : Spec.transacts (xs ++ ys) s = Spec.transacts ys (Spec.transacts xs s) :=
    List.foldl_append
  simp only [served, hsplit, transacts_dropAnswers, dropAnswers_dropAnswers, List.length_append,
    Nat.mul_add]

theorem served_cons (x : Txn × TxnReplies) (xs : List (Txn × TxnReplies)) (s : State) :
    served (x :: xs) s = served xs (served [x] s) :=
  served_append [x] xs s

/-- `Transact` writes no parameter and moves neither the sequencer nor the command. -/
theorem transacts_keeps (xs : List (Txn × TxnReplies)) (s : State) :
    (Spec.transacts xs s).params = s.params ∧ (Spec.transacts xs s).ready = s.ready := by
  induction xs generalizing s with
  | nil => exact ⟨rfl, rfl⟩
  | cons x xs ih => exact ih (Spec.transact x.1 x.2 s)

@[simp] theorem served_params (xs : List (Txn × TxnReplies)) (s : State) :
    (served xs s).params = s.params :=
  (transacts_keeps xs s).1

@[simp] theorem served_ready (xs : List (Txn × TxnReplies)) (s : State) :
    (served xs s).ready = s.ready :=
  (transacts_keeps xs s).2

/-- Received byte 1 is the value a transaction returns (R81). -/
@[simp] theorem served_one_b1 (x : Txn) (q : TxnReplies) (s : State) :
    (served [(x, q)] s).buf.b1 = q.exchange.rx.b1 :=
  transact_buf_b1 x q s

/-- The replies behind those of the transactions made are still to come. -/
theorem willReply_served {s : State} (xs : List (Txn × TxnReplies)) {qs : List TxnReplies}
    (h : s.willReply (repliesOf (xs.map Prod.snd ++ qs))) :
    (served xs s).willReply (repliesOf qs) := by
  induction xs generalizing s with
  | nil => rwa [served_nil]
  | cons x xs ih =>
    rw [served_cons]
    exact ih (willReply_congr rfl rfl (willReply_cons h).2)

/-- An idle block that has made its transactions completes with a response. -/
theorem complete_served {s : State} (hs : s.ready = true) (xs : List (Txn × TxnReplies))
    (r : Response) :
    complete r (served xs s) =
      ({ Spec.transacts xs s with response := r } : State).dropAnswers (3 * xs.length) :=
  complete_of_ready (s := served xs s) ((served_ready xs s).trans hs) r

/-- The rule of the operations: a transaction that is answered is `Transact`, and the block runs
on with what the command does next. -/
theorem runBlock_goTo_answered {s : State} (p : Progress) {q : TxnReplies} {qs : List TxnReplies}
    (h : s.willReply (repliesOf (q :: qs))) :
    runBlock (goTo p s) = runBlock (advance p (served [(p.txn s.params, q)] s)) := by
  have hreply : (goTo p s).willReply (repliesOf [q]) := willReply_congr rfl rfl (willReply_cons h).1
  have htxn : runTxn (goTo p s) = advance p (served [(p.txn s.params, q)] s) :=
    (runTxn_eq_transact rfl rfl hreply).trans
      (advance_of_sequencer p (served [(p.txn s.params, q)] s) .update (some p))
  have hbusy : (goTo p s).phase ≠ .idle := by simp
  have hdone : (runTxn (goTo p s)).phase.awaits = false := by
    rw [htxn]
    exact advance_phase_not_awaits _ _
  rw [runBlock_runTxn (goTo_op s p) hbusy hdone, htxn]

theorem runBlock_complete (r : Response) (s : State) :
    runBlock (complete r s) = complete r s :=
  runBlock_of_op_none (complete_op s r)

/-! ### REFRESH -/

/-- Operation code 3 is REFRESH (R56). -/
theorem decode_refresh (a d : Byte) : decode (.cmd (cmdWord 0b011 a d)) = .ok .refresh := by
  simp [decode, decodeCmd]

/-- Settles O19: the command completes after its one write, with the `ERR` that write leaves
(R102). -/
theorem refreshPerformsTheNoOpWrite : Obligations.RefreshPerformsTheNoOpWrite := by
  refine ⟨decode_refresh, fun s q hs h => ?_⟩
  have hclear : (clearErrors s).willReply (repliesOf [q]) := willReply_congr rfl rfl h
  have hrun := runBlock_goTo_completes (s := clearErrors s) (p := .refresh) hs hclear
    (fun u _ herr => congrArg (fun e => complete (.errMask e) u) herr)
  exact (accept_ready hs _ _).trans (congrArg _ hrun)

/-! ### GETFLT -/

/-- Operation code 5 is GETFLT (R56). -/
theorem decode_getflt (a d : Byte) : decode (.cmd (cmdWord 0b101 a d)) = .ok .getflt := by
  simp [decode, decodeCmd]

/-- GETFLT's two reads, the first one's byte kept while the second is made (R105). -/
theorem runBlock_getflt {s : State} {q1 q2 : TxnReplies} (h : s.willReply (repliesOf [q1, q2])) :
    runBlock (goTo .getfltHi s) =
      complete (.faults (q1.exchange.rx.b1 ++ q2.exchange.rx.b1))
        (served [(⟨.rd, s.params.addrFaultHi, 0x00⟩, q1), (⟨.rd, s.params.addrFaultLo, 0x00⟩, q2)]
          s) := by
  let s1 := served [(⟨.rd, s.params.addrFaultHi, 0x00⟩, q1)] s
  let s2 := served [(⟨.rd, s.params.addrFaultLo, 0x00⟩, q2)] s1
  have h1 : s1.willReply (repliesOf [q2]) := willReply_served [(_, q1)] h
  calc runBlock (goTo .getfltHi s)
      = runBlock (goTo (.getfltLo s1.buf.b1) s1) := runBlock_goTo_answered .getfltHi h
    _ = runBlock (complete (.faults (s1.buf.b1 ++ s2.buf.b1)) s2) :=
        runBlock_goTo_answered (.getfltLo s1.buf.b1) h1
    _ = complete (.faults (q1.exchange.rx.b1 ++ q2.exchange.rx.b1)) s2 := by
        rw [runBlock_complete, served_one_b1, served_one_b1]
    _ = _ := congrArg (complete _) (served_append [_] [_] s).symm

/-- Settles O20: the two reads run one after the other from a cleared `ERR`, and the response is
made of the bytes they return (R105). -/
theorem getfltCombinesTwoReads : Obligations.GetfltCombinesTwoReads := by
  refine ⟨decode_getflt, fun s q1 q2 hs h => ?_⟩
  have hclear : (clearErrors s).willReply (repliesOf [q1, q2]) := willReply_congr rfl rfl h
  have hrun := (runBlock_getflt hclear).trans (complete_served (s := clearErrors s) hs _ _)
  exact (accept_ready hs _ _).trans (congrArg _ hrun)

/-! ### SETFILT -/

/-- The sum of R104 is taken at 8 bits, before or after the base is cut to 8 bits. -/
theorem filterAddr_eq_ofNat (p : Params) (i : Fin 8) :
    filterAddr p i = BitVec.ofNat 8 (p.addrFilterBase.toNat + 2 * i.val) := by
  simp [filterAddr, BitVec.ofNat_add]

theorem filterAddr_toNat (p : Params) (i : Fin 8) :
    (filterAddr p i).toNat = (p.addrFilterBase.toNat + 2 * i.val) % 256 := by
  rw [filterAddr_eq_ofNat]
  exact BitVec.toNat_ofNat _ 8

/-- Settles O24: the address is the sum at 8 bits, and R7 keeps the sum below 2^7 (R104). -/
theorem filterAddressesAreBasePlusTwiceTheIndex :
    Obligations.FilterAddressesAreBasePlusTwiceTheIndex := by
  intro p i
  refine ⟨filterAddr_toNat p i, fun hrange => ?_⟩
  have hbase : p.addrFilterBase.toNat + 14 ≤ 0x7F := of_decide_eq_true hrange
  have hsum : (filterAddr p i).toNat = p.addrFilterBase.toNat + 2 * i.val := by
    rw [filterAddr_toNat]
    omega
  have hlt : (filterAddr p i).toNat < 2 ^ 7 := by omega
  exact ⟨hsum, Nat.testBit_lt_two_pow hlt⟩

/-- The channels of mask `m` from index `n` up, ascending. -/
def channelsFrom (m : Byte) (n : Nat) : List Nat := (List.range' n (8 - n)).filter m.getLsbD

/-- The filter write of channel `i` (R103, R104). -/
def filterWrite (p : Params) (v : Byte) (i : Nat) : Txn :=
  ⟨.wr, BitVec.ofNat 8 (p.addrFilterBase.toNat + 2 * i), v⟩

theorem filterWrites_eq_map (p : Params) (m v : Byte) :
    Spec.filterWrites p m v = (channelsFrom m 0).map (filterWrite p v) := by
  rw [channelsFrom, Nat.sub_zero, ← List.range_eq_range']
  rfl

theorem txn_setfilt (p : Params) (m v : Byte) (i : Fin 8) :
    (Progress.setfilt m v i).txn p = filterWrite p v i := by
  rw [Progress.txn, filterWrite, filterAddr_eq_ofNat]

theorem channelsFrom_of_none {m : Byte} {n : Nat} (h : nextChannel m n = none) :
    channelsFrom m n = [] := by
  refine List.filter_eq_nil_iff.2 fun j hj => ?_
  have hn : n ≤ j := (List.mem_range'_1.1 hj).1
  simp [nextChannel_none h j hn]

/-- The next channel is the first of those left, and the search goes on behind it. -/
theorem channelsFrom_of_some {m : Byte} {n : Nat} {i : Fin 8} (h : nextChannel m n = some i) :
    channelsFrom m n = i.val :: channelsFrom m (i.val + 1) := by
  obtain ⟨hset, hn, hbetween⟩ := nextChannel_some h
  obtain ⟨k, hk⟩ := Nat.exists_eq_add_of_le hn
  have hsplit : List.range' n (8 - n) =
      List.range' n k ++ i.val :: List.range' (i.val + 1) (8 - (i.val + 1)) := by
    rw [← List.range'_succ, hk, List.range'_append_1]
    congr 1
    omega
  have hskip : (List.range' n k).filter m.getLsbD = [] := by
    refine List.filter_eq_nil_iff.2 fun j hj => ?_
    obtain ⟨hlow, hhigh⟩ := List.mem_range'_1.1 hj
    simp [hbetween j hlow (by omega)]
  rw [channelsFrom, hsplit, List.filter_append, hskip, List.filter_cons_of_pos hset]
  rfl

/-- SETFILT writes the channels left and completes (R103). -/
theorem runBlock_setfiltNext {m v : Byte} {n : Nat} {s : State} {qs : List TxnReplies}
    (hlen : qs.length = (channelsFrom m n).length) (h : s.willReply (repliesOf qs)) :
    runBlock (setfiltNext m v n s) =
      complete .none (served (((channelsFrom m n).map (filterWrite s.params v)).zip qs) s) := by
  induction qs generalizing n s with
  | nil =>
    have hnone : nextChannel m n = none := by
      cases hnext : nextChannel m n with
      | none => rfl
      | some i => simp [channelsFrom_of_some hnext] at hlen
    simp only [setfiltNext, hnone, List.zip_nil_right, served_nil, runBlock_complete]
  | cons q qs ih =>
    cases hnext : nextChannel m n with
    | none => simp [channelsFrom_of_none hnext] at hlen
    | some i =>
      have hlist := channelsFrom_of_some hnext
      have hlen' : qs.length = (channelsFrom m (i.val + 1)).length := by
        simpa [hlist] using hlen
      let s1 := served [(filterWrite s.params v i, q)] s
      have h1 : s1.willReply (repliesOf qs) := willReply_served [(_, q)] h
      calc runBlock (setfiltNext m v n s)
          = runBlock (goTo (.setfilt m v i) s) := by simp only [setfiltNext, hnext]
        _ = runBlock (setfiltNext m v (i.val + 1) s1) := by
            rw [runBlock_goTo_answered _ h, txn_setfilt]
            rfl
        _ = complete .none
              (served (((channelsFrom m (i.val + 1)).map (filterWrite s1.params v)).zip qs) s1) :=
            ih hlen' h1
        _ = _ := by
            rw [hlist, List.map_cons, List.zip_cons_cons, served_cons, served_params]

/-- An empty mask is the only one with no channel. -/
theorem nextChannel_zero_eq_none_iff (m : Byte) : nextChannel m 0 = none ↔ m = 0x00 := by
  constructor
  · intro h
    refine BitVec.eq_of_getLsbD_eq fun j _ => ?_
    exact (nextChannel_none h j j.zero_le).trans BitVec.getLsbD_zero.symm
  · rintro rfl
    decide

/-- An idle block runs SETFILT with a mask that is not empty, from its first channel. -/
theorem exec_setfilt_ready {s : State} {m : Byte} (v : Byte) (hs : s.ready = true)
    (hm : m ≠ 0x00) :
    exec (.setfilt m v) s = .next (runBlock (setfiltNext m v 0 (clearErrors s))) := by
  cases hnext : nextChannel m 0 with
  | none => exact absurd ((nextChannel_zero_eq_none_iff m).1 hnext) hm
  | some i =>
    simp only [exec, execSetfilt, setfiltNext, hs, hnext, if_true]
    exact accept_ready hs _ _

theorem exec_setfilt_empty {s : State} (v : Byte) (hs : s.ready = true) :
    exec (.setfilt 0x00 v) s = .refused .emptyMask := by
  have hnext : nextChannel 0x00 0 = none := (nextChannel_zero_eq_none_iff _).2 rfl
  simp only [exec, execSetfilt, hs, hnext, if_true]

/-- Operation code 4 is SETFILT of the fields A and D (R56). -/
theorem decode_setfilt (m v : Byte) :
    decode (.cmd (cmdWord 0b100 m v)) = .ok (.setfilt m v) := by
  simp [decode, decodeCmd]

/-- Settles O21: the channels the sequencer visits, each found by the search from behind the last
one, are the set bits of the mask in ascending order (R103, D15). -/
theorem setfiltWritesEverySelectedChannel : Obligations.SetfiltWritesEverySelectedChannel := by
  refine ⟨decode_setfilt, fun _ v hs => exec_setfilt_empty v hs, fun s m v qs hs hm hlen h => ?_⟩
  rw [filterWrites_eq_map] at hlen ⊢
  rw [List.length_map] at hlen
  have hclear : (clearErrors s).willReply (repliesOf qs) := willReply_congr rfl rfl h
  have hrun := (runBlock_setfiltNext (v := v) hlen hclear).trans
    (complete_served (s := clearErrors s) hs _ _)
  rw [List.length_zip, List.length_map, ← hlen, Nat.min_self] at hrun
  exact (exec_setfilt_ready v hs hm).trans (congrArg _ hrun)

/-! ### INIT -/

/-- Operation code 2 is INIT (R56). -/
theorem decode_init (a d : Byte) : decode (.cmd (cmdWord 0b010 a d)) = .ok .init := by
  simp [decode, decodeCmd]

/-- One of INIT's configuration writes (R101). -/
def configWrite (w : Byte × Byte) : Txn := ⟨.wr, w.1, w.2⟩

/-- The write branch is taken when the flag agrees with the polarity (R101). -/
theorem takesWriteBranch_iff (p : Params) (st : Byte) :
    takesWriteBranch p st = true ↔ ((st &&& p.porMask) ≠ 0x00 ↔ p.initWriteIfPor = true) := by
  rw [takesWriteBranch, beq_iff_eq, Bool.eq_iff_iff, bne_iff_ne]

theorem initWrites_eq_map (p : Params) (st : Byte) :
    Spec.initWrites p st =
      (if takesWriteBranch p st then p.initWrites else []).map configWrite := by
  simp only [Spec.initWrites, ← takesWriteBranch_iff]
  split <;> rfl

/-- INIT makes the writes left and reads back (R101). -/
theorem runBlock_initNext (st : Byte) (ws : List (Byte × Byte)) {s : State}
    {qs rest : List TxnReplies} (hlen : qs.length = ws.length)
    (h : s.willReply (repliesOf (qs ++ rest))) :
    runBlock (initNext st ws s) =
      runBlock (goTo (.initReadback st) (served ((ws.map configWrite).zip qs) s)) := by
  induction ws generalizing qs s with
  | nil => simp only [initNext, List.map_nil, List.zip_nil_left, served_nil]
  | cons w ws ih =>
    cases qs with
    | nil => cases hlen
    | cons q qs =>
      let s1 := served [(configWrite w, q)] s
      have h1 : s1.willReply (repliesOf (qs ++ rest)) := willReply_served [(_, q)] h
      calc runBlock (initNext st (w :: ws) s)
          = runBlock (initNext st ws s1) :=
            runBlock_goTo_answered (.initWrite st w.1 w.2 ws) h
        _ = runBlock (goTo (.initReadback st) (served ((ws.map configWrite).zip qs) s1)) :=
            ih (Nat.succ.inj hlen) h1
        _ = _ := by rw [List.map_cons, List.zip_cons_cons, served_cons]

/-- INIT reads the status register, makes the writes its byte decides on, reads back and compares
(R101). -/
theorem runBlock_init {s : State} {q0 qe : TxnReplies} {qs : List TxnReplies}
    (hlen : qs.length = (Spec.initWrites s.params q0.exchange.rx.b1).length)
    (h : s.willReply (repliesOf (q0 :: qs ++ [qe]))) :
    runBlock (goTo .initStatus s) = initFinish qe.exchange.rx.b1
      (served ((⟨.rd, s.params.addrStatus, 0x00⟩, q0) ::
        (Spec.initWrites s.params q0.exchange.rx.b1).zip qs ++
        [(⟨.rd, s.params.addrFaultEn, 0x00⟩, qe)]) s) := by
  rw [initWrites_eq_map] at hlen ⊢
  rw [List.length_map] at hlen
  generalize hws : (if takesWriteBranch s.params q0.exchange.rx.b1 then s.params.initWrites
    else []) = ws at hlen ⊢
  let s1 := served [(⟨.rd, s.params.addrStatus, 0x00⟩, q0)] s
  let s2 := served ((ws.map configWrite).zip qs) s1
  let s3 := served [(⟨.rd, s.params.addrFaultEn, 0x00⟩, qe)] s2
  have h1 : s1.willReply (repliesOf (qs ++ [qe])) := willReply_served [(_, q0)] h
  have h2 : s2.willReply (repliesOf [qe]) := by
    refine willReply_served _ ?_
    rwa [List.map_snd_zip (by simp [hlen])]
  have hp2 : s2.params = s.params := by simp [s2, s1]
  have hbranch : initBranch s1.buf.b1 s1 = initNext q0.exchange.rx.b1 ws s1 := by
    rw [initBranch, served_one_b1, served_params, hws]
  have hreadback : runBlock (goTo (.initReadback q0.exchange.rx.b1) s2) =
      runBlock (initFinish s3.buf.b1 s3) := by
    rw [runBlock_goTo_answered _ h2, Progress.txn, hp2]
    rfl
  calc runBlock (goTo .initStatus s)
      = runBlock (initBranch s1.buf.b1 s1) := runBlock_goTo_answered .initStatus h
    _ = runBlock (goTo (.initReadback q0.exchange.rx.b1) s2) := by
        rw [hbranch, runBlock_initNext _ ws hlen h1]
    _ = runBlock (initFinish s3.buf.b1 s3) := hreadback
    _ = initFinish qe.exchange.rx.b1 s3 := by
        rw [served_one_b1]
        exact runBlock_complete _ _
    _ = _ := by rw [served_append, served_cons (_, q0)]

/-- `ERR` after the read-back compare of byte `b`: a mismatch is a communication error (R101). -/
def comparedErr (p : Params) (b : Byte) (err : BitVec 2) : BitVec 2 :=
  if b ≠ p.faultEnExpect then err ||| ErrKind.mask p .comm else err

/-- The read-back compare of an idle block that has made its transactions: the response is the
`ERR` it leaves (R101). -/
theorem initFinish_served {s : State} (hs : s.ready = true) (b : Byte)
    (xs : List (Txn × TxnReplies)) :
    initFinish b (served xs s) =
      ({ Spec.transacts xs s with
        err := comparedErr s.params b (Spec.transacts xs s).err
        response := .errMask (comparedErr s.params b (Spec.transacts xs s).err) } :
        State).dropAnswers (3 * xs.length) := by
  obtain ⟨hparams, hready⟩ := transacts_keeps xs s
  have hdone : (recordError .comm (b != s.params.faultEnExpect) (served xs s)).ready = true :=
    hready.trans hs
  simp only [initFinish, served_params, complete_of_ready hdone]
  simp [comparedErr, recordError, served, State.dropAnswers, hparams]

/-- Settles O22: at either polarity the status byte picks the writes, which run one after another
between the two reads from a cleared `ERR`; the compare comes last (R101). -/
theorem initConfiguresAndReadsBack : Obligations.InitConfiguresAndReadsBack := by
  refine ⟨decode_init, fun s q0 qe qs hs hlen h => ?_⟩
  have hclear : (clearErrors s).willReply (repliesOf (q0 :: qs ++ [qe])) :=
    willReply_congr rfl rfl h
  have hcount : ((⟨.rd, s.params.addrStatus, 0x00⟩, q0) ::
      (Spec.initWrites s.params q0.exchange.rx.b1).zip qs ++
      [((⟨.rd, s.params.addrFaultEn, 0x00⟩ : Txn), qe)]).length = qs.length + 2 := by
    simp [← hlen]
  have hrun := (runBlock_init (s := clearErrors s) hlen hclear).trans
    (initFinish_served (s := clearErrors s) hs _ _)
  simp only [clearErrors_params, hcount] at hrun
  exact (accept_ready hs _ _).trans (congrArg _ hrun)

end Sys2Proof.Machine

/-! `ERR` accumulates (R127, R128): every phase only ever sets bits of it, so running on keeps
each bit set, and the one action that clears a bit is the entry of a logical operation. -/

namespace Sys2Proof.Machine

/-! ### The order in which the sequencer moves `ERR` -/

/-- Every bit of `ERR` set in `s` is set in `t` (R128). -/
def State.errKeptBy (s t : State) : Prop := s.err ||| t.err = t.err

theorem State.errKeptBy.of_err_eq {s t : State} (h : t.err = s.err) : s.errKeptBy t := by
  simp [State.errKeptBy, h]

theorem State.errKeptBy.refl (s : State) : s.errKeptBy s := State.errKeptBy.of_err_eq rfl

theorem State.errKeptBy.trans {s t u : State} (hst : s.errKeptBy t) (htu : t.errKeptBy u) :
    s.errKeptBy u := by
  unfold State.errKeptBy at *
  rw [← htu, ← BitVec.or_assoc, hst]

theorem errKeptBy_recordError (k : ErrKind) (b : Bool) (s : State) :
    s.errKeptBy (recordError k b s) :=
  (BitVec.or_comm _ _).trans (recordError_keeps k b s)

/-! ### `ERR` through one transaction -/

/-- Each call records at most COMM when it returns, whatever it returned (R85 to R87). -/
theorem errKeptBy_acquired (r : Reply) (s : State) : s.errKeptBy (acquired r s) :=
  errKeptBy_recordError .comm (!r.ok) s

theorem errKeptBy_received (r : Reply) (s : State) : s.errKeptBy (received r s) :=
  errKeptBy_recordError .comm (!r.ok) (receive r.rx s)

theorem errKeptBy_released (r : Reply) (s : State) : s.errKeptBy (released r s) :=
  errKeptBy_recordError .comm (!r.ok) s

theorem errKeptBy_buildPhase (s : State) : s.errKeptBy (buildPhase s) := by
  obtain h | ⟨_, _, _, h⟩ := buildPhase_cases s <;> exact .of_err_eq (by simp [h])

theorem errKeptBy_acquirePhase (s : State) : s.errKeptBy (acquirePhase s) := by
  obtain h | ⟨_, _, h⟩ | ⟨r, _, _, h⟩ := acquirePhase_cases s <;> rw [h]
  · exact .refl s
  · exact .of_err_eq rfl
  · exact errKeptBy_acquired r (s.dropAnswers 1)

theorem errKeptBy_exchangePhase (s : State) : s.errKeptBy (exchangePhase s) := by
  obtain h | ⟨_, _, h⟩ | ⟨r, _, _, h⟩ := exchangePhase_cases s <;> rw [h]
  · exact .refl s
  · exact .of_err_eq rfl
  · exact errKeptBy_received r (s.dropAnswers 1)

theorem errKeptBy_releasePhase (s : State) : s.errKeptBy (releasePhase s) := by
  obtain h | ⟨_, _, h⟩ | ⟨r, _, _, h⟩ := releasePhase_cases s <;> rw [h]
  · exact .refl s
  · exact .of_err_eq rfl
  · exact errKeptBy_released r (s.dropAnswers 1)

/-- VERIFY records at most INTEG (R88). -/
theorem errKeptBy_verifyPhase (s : State) : s.errKeptBy (verifyPhase s) := by
  obtain h | ⟨_, h⟩ := verifyPhase_cases s <;> rw [h]
  · exact .refl s
  · exact errKeptBy_recordError .integ (s.crcEn && !frameValid s.buf) s

/-- A command that completes records at most COMM, by INIT's read-back compare (R101). -/
theorem errKeptBy_advance (p : Progress) (s : State) : s.errKeptBy (advance p s) := by
  obtain ⟨_, h, _⟩ | ⟨b, _, h⟩ := advance_cases p s <;> rw [h]
  · exact .of_err_eq rfl
  · exact errKeptBy_recordError .comm b s

theorem errKeptBy_updatePhase (s : State) : s.errKeptBy (updatePhase s) := by
  obtain h | ⟨p, _, _, h⟩ := updatePhase_cases s <;> rw [h]
  · exact .refl s
  · exact errKeptBy_advance p (snapshot (p.txn s.params).dir s)

/-- No phase clears a bit of `ERR`. -/
theorem errKeptBy_runTxn (s : State) : s.errKeptBy (runTxn s) :=
  runTxn_keeps (.refl s)
    (fun t h => h.trans (errKeptBy_buildPhase t)) (fun t h => h.trans (errKeptBy_acquirePhase t))
    (fun t h => h.trans (errKeptBy_exchangePhase t)) (fun t h => h.trans (errKeptBy_releasePhase t))
    (fun t h => h.trans (errKeptBy_verifyPhase t)) (fun t h => h.trans (errKeptBy_updatePhase t))

/-! ### `ERR` through a command and a step -/

theorem errKeptBy_runBlock (s : State) : s.errKeptBy (runBlock s) :=
  runBlock_keeps (fun t h => h.trans (errKeptBy_runTxn t)) s (.refl s)

/-- The four logical operations (R100). -/
def isLogical (i : Instr) : Prop :=
  i = .init ∨ i = .refresh ∨ (∃ m v, i = .setfilt m v) ∨ i = .getflt

theorem isLogical_of_begins {i : Instr} {p : Progress} (h : begins i p true) : isLogical i := by
  cases i with
  | crc5 w => exact h.elim
  | rdreg a => exact absurd h.2 (by decide)
  | wrreg a d => exact absurd h.2 (by decide)
  | init => exact .inl rfl
  | refresh => exact .inr (.inl rfl)
  | setfilt m v => exact .inr (.inr (.inl ⟨m, v, rfl⟩))
  | getflt => exact .inr (.inr (.inr rfl))

/-- An instruction that does not clear `ERR` at its entry clears no bit of it afterwards. -/
theorem exec_errKeptBy_or_isLogical {i : Instr} {s t : State} (h : exec i s = .next t) :
    s.errKeptBy t ∨ isLogical i := by
  obtain ⟨w, _, rfl⟩ | ⟨_, p, c, hbegins, rfl⟩ := exec_cases h
  · exact .inl (.of_err_eq rfl)
  · cases c with
    | false => exact .inl (errKeptBy_runBlock (goTo p s))
    | true => exact .inr (isLogical_of_begins hbegins)

/-- Settles O30: running on keeps every bit of `ERR`, and RDREG and WRREG run on from the `ERR`
they find (R128). -/
theorem errorsOnlyAccumulate : Obligations.ErrorsOnlyAccumulate := by
  refine ⟨fun s t hr h => ?_, fun i s t hi h => (exec_errKeptBy_or_isLogical h).resolve_right ?_⟩
  · obtain ⟨hready, _⟩ | ⟨hready, _⟩ | ⟨_, rfl⟩ := step_cases h
    · exact absurd hready (by simp [hr])
    · exact absurd hready (by simp [hr])
    · exact errKeptBy_runBlock s
  · obtain ⟨a, rfl⟩ | ⟨a, d, rfl⟩ := hi <;> simp [isLogical]

/-- A command that clears `ERR` at its entry runs from a state in which what `ERR` held is gone. -/
theorem accept_clearErrors_of_err (p : Progress) (s : State) (e : BitVec 2) :
    accept p clearErrors { s with err := e } = accept p clearErrors s := rfl

theorem execSetfilt_of_err (m v : Byte) (s : State) (e : BitVec 2) :
    execSetfilt m v { s with err := e } = execSetfilt m v s := by
  have hready : ({ s with err := e } : State).ready = s.ready := rfl
  simp only [execSetfilt, hready, accept_clearErrors_of_err]

/-- Settles O31: waiting and running on clear nothing, so a step that clears a bit runs one of the
four logical operations; their entry forgets the `ERR` they find (R127). -/
theorem onlyLogicalOperationsClearErrors : Obligations.OnlyLogicalOperationsClearErrors := by
  refine ⟨fun s t h hclear => ?_, fun s e m v => ?_⟩
  · obtain ⟨_, _, rfl⟩ | ⟨hr, r, rest, i, hreq, hdec, hexec⟩ | ⟨_, rfl⟩ := step_cases h
    · exact absurd (State.errKeptBy.refl _) hclear
    · exact ⟨hr, r, rest, i, hreq, hdec, (exec_errKeptBy_or_isLogical hexec).resolve_left hclear⟩
    · exact absurd (errKeptBy_runBlock s) hclear
  · exact ⟨accept_clearErrors_of_err _ s e, accept_clearErrors_of_err _ s e,
      execSetfilt_of_err m v s e, accept_clearErrors_of_err _ s e⟩

end Sys2Proof.Machine

/-! Decoder and encoder agree (30_encoding.md).  A command word is its three fields, so each law of
the decoder is a case split over the operation code, one rule for each row of the opcode map. -/

namespace Sys2Proof.Machine

/-! ### A command word is its three fields -/

/-- The fields of R54 are the whole of a command word. -/
theorem cmdWord_of_fields (w : BitVec 19) : cmdWord (cmdOp w) (cmdA w) (cmdD w) = w := by
  have hlow : w.extractLsb' 8 8 ++ w.extractLsb' 0 8 = w.extractLsb' 0 16 :=
    BitVec.extractLsb'_append_extractLsb'_eq_extractLsb' rfl
  have hall : w.extractLsb' 16 3 ++ w.extractLsb' 0 16 = w.extractLsb' 0 19 :=
    BitVec.extractLsb'_append_extractLsb'_eq_extractLsb' rfl
  calc cmdWord (cmdOp w) (cmdA w) (cmdD w)
      = w.extractLsb' 16 3 ++ (w.extractLsb' 8 8 ++ w.extractLsb' 0 8) := BitVec.append_assoc
    _ = w := by rw [hlow, hall, BitVec.extractLsb'_eq_self]

/-- A command word is masked field by field. -/
theorem cmdWord_and (op op' : BitVec 3) (a a' d d' : Byte) :
    cmdWord op a d &&& cmdWord op' a' d' = cmdWord (op &&& op') (a &&& a') (d &&& d') :=
  BitVec.and_append.trans (congrArg (· ++ (d &&& d')) BitVec.and_append)

/-- The operation codes: six rows of the opcode map and two reserved ones (R56, R57). -/
theorem opcode_cases (op : BitVec 3) :
    op = 0b000 ∨ op = 0b001 ∨ op = 0b010 ∨ op = 0b011 ∨ op = 0b100 ∨ op = 0b101 ∨
      op = 0b110 ∨ op = 0b111 := by
  revert op
  decide

/-! ### Words that decode, and words that do not -/

/-- Operation codes 6 and 7 are refused by name, whatever the other fields hold (R57). -/
theorem decode_reserved {op : BitVec 3} (h : op = 0b110 ∨ op = 0b111) (a d : Byte) :
    decode (.cmd (cmdWord op a d)) = .error (.reservedOp op) := by
  obtain rfl | rfl := h <;> simp [decode, decodeCmd]

/-- Decoding undoes encoding. -/
theorem decode_encode (i : Instr) : decode (encode i) = .ok i := by
  cases i with
  | crc5 w => rfl
  | rdreg a => exact decode_rdreg a 0
  | wrreg a d => exact decode_wrreg a d
  | init => exact decode_init 0 0
  | refresh => exact decode_refresh 0 0
  | setfilt m v => exact decode_setfilt m v
  | getflt => exact decode_getflt 0 0

/-- An accepted word has one of the six codes, and zeroing the fields its operation ignores makes
it the word the instruction encodes to (R54, R56). -/
theorem encode_of_decode {op : BitVec 3} {a d : Byte} {i : Instr}
    (h : decode (.cmd (cmdWord op a d)) = .ok i) :
    encode i = .cmd (cmdWord op a d &&& Spec.careMask i) := by
  have hmask : ∀ (mop : BitVec 3) (ma md : Byte), Spec.careMask i = cmdWord mop ma md →
      cmdWord op a d &&& Spec.careMask i = cmdWord (op &&& mop) (a &&& ma) (d &&& md) :=
    fun mop ma md hm => by rw [hm, cmdWord_and]
  have hall : ∀ b : Byte, b &&& 0xFF#8 = b := fun _ => BitVec.and_allOnes
  obtain rfl | rfl | rfl | rfl | rfl | rfl | hreserved := opcode_cases op
  · cases (decode_rdreg a d).symm.trans h
    rw [hmask 0b111 0xFF 0x00 rfl]
    simp [encode, hall]
  · cases (decode_wrreg a d).symm.trans h
    rw [hmask 0b111 0xFF 0xFF rfl]
    simp [encode, hall]
  · cases (decode_init a d).symm.trans h
    rw [hmask 0b111 0x00 0x00 rfl]
    simp [encode]
  · cases (decode_refresh a d).symm.trans h
    rw [hmask 0b111 0x00 0x00 rfl]
    simp [encode]
  · cases (decode_setfilt a d).symm.trans h
    rw [hmask 0b111 0xFF 0xFF rfl]
    simp [encode, hall]
  · cases (decode_getflt a d).symm.trans h
    rw [hmask 0b111 0x00 0x00 rfl]
    simp [encode]
  · rw [decode_reserved hreserved] at h
    cases h

/-- Exactly the two reserved operation codes are refused, each by its code (R57). -/
theorem decode_eq_error_iff (op : BitVec 3) (a d : Byte) (e : DecodeError) :
    decode (.cmd (cmdWord op a d)) = .error e ↔
      (op = 0b110 ∨ op = 0b111) ∧ e = .reservedOp op := by
  have haccepted : ∀ {i : Instr}, decode (.cmd (cmdWord op a d)) = .ok i →
      decode (.cmd (cmdWord op a d)) ≠ .error e := fun hi he => by
    rw [hi] at he
    cases he
  constructor
  · intro h
    obtain rfl | rfl | rfl | rfl | rfl | rfl | hreserved := opcode_cases op
    · exact absurd h (haccepted (decode_rdreg a d))
    · exact absurd h (haccepted (decode_wrreg a d))
    · exact absurd h (haccepted (decode_init a d))
    · exact absurd h (haccepted (decode_refresh a d))
    · exact absurd h (haccepted (decode_setfilt a d))
    · exact absurd h (haccepted (decode_getflt a d))
    · rw [decode_reserved hreserved] at h
      cases h
      exact ⟨hreserved, rfl⟩
  · rintro ⟨hreserved, rfl⟩
    exact decode_reserved hreserved a d

/-- Settles O10: every word is the word of its fields, so the laws of words made of fields are
those of all words; the checksum port has one instruction (R54, R56 to R58). -/
theorem decodeAndEncodeAgree : Obligations.DecodeAndEncodeAgree := by
  refine ⟨decode_encode, fun w i h => ?_, fun w e => ?_, fun w i => ?_⟩
  · rw [← cmdWord_of_fields w] at h ⊢
    exact encode_of_decode h
  · have h := decode_eq_error_iff (cmdOp w) (cmdA w) (cmdD w) e
    rwa [cmdWord_of_fields] at h
  · constructor
    · rintro ⟨⟩
      rfl
    · rintro rfl
      rfl

/-- Settles O11: each word is written out as the word of its three fields, or is the checksum
port's (R54, R58). -/
theorem writtenOutWordsDecode : Obligations.WrittenOutWordsDecode :=
  ⟨decode_rdreg 0x7F 0x00, decode_wrreg 0x9E 0xC0, decode_wrreg 0x1E 0xC0, decode_init 0x00 0x00,
    decode_refresh 0x00 0x00, decode_setfilt 0x25 0x08, decode_getflt 0x00 0x00, rfl⟩

/-! ### The word presented to an idle block -/

/-- A step of an idle block decides on the word presented as the decoder does (R80). -/
theorem step_presented {s : State} {r : Request} {rest : List Request} (hs : s.ready = true)
    (hreq : s.requests = r :: rest) :
    (∀ i, decode r = .ok i → step s = exec i { s with requests := rest }) ∧
      ∀ e, decode r = .error e → step s = .refused (decodeRefusal e) := by
  have htake : takeRequest s = some (r, { s with requests := rest }) := by
    simp only [takeRequest, hreq]
  constructor <;> intro x hx <;> simp only [step, hs, htake, hx, if_true]

/-- Settles O12: a reserved code is refused by the step that decodes it (R57, D10); the decoder
does not look at SETFILT's mask. -/
theorem reservedOperationCodesAreRefused : Obligations.ReservedOperationCodesAreRefused := by
  refine ⟨fun s w rest hs hreq hop => ?_, fun v => decode_setfilt 0x00 v⟩
  have hdec := decode_reserved (op := cmdOp w) hop (cmdA w) (cmdD w)
  rw [cmdWord_of_fields] at hdec
  exact (step_presented hs hreq).2 _ hdec

/-- Settles O13: a presented word that decodes is run with the word taken off the list, and with
an empty list the block waits (R80, R140). -/
theorem stepRunsThePresentedInstruction : Obligations.StepRunsThePresentedInstruction := by
  refine ⟨fun s r rest i hs hreq hdec => (step_presented hs hreq).1 i hdec, fun s hs hreq => ?_⟩
  simp only [step, hs, takeRequest, hreq, if_true]

end Sys2Proof.Machine

/-! What the phases of a transaction leave alone.  Before UPDATE no phase touches the command in
progress, WB, the response or the command and checksum ports, and calls are only added; UPDATE and
what the command does next are the rest of the transaction. -/

namespace Sys2Proof.Machine

/-! ### The phases before UPDATE -/

/-- The phases of a transaction before UPDATE (R17). -/
def untilUpdate (s : State) : State :=
  verifyPhase (releasePhase (exchangePhase (acquirePhase (buildPhase s))))

theorem runTxn_eq_updatePhase (s : State) : runTxn s = updatePhase (untilUpdate s) := rfl

/-- What the phases before UPDATE leave in `t` of the state `s` they began in. -/
structure State.framedBy (s t : State) : Prop where
  op : t.op = s.op
  wb : t.wb = s.wb
  response : t.response = s.response
  requests : t.requests = s.requests
  crcOut : t.crcOut = s.crcOut
  calls : s.calls <+: t.calls

theorem State.framedBy.refl (s : State) : s.framedBy s :=
  ⟨rfl, rfl, rfl, rfl, rfl, ⟨[], List.append_nil _⟩⟩

theorem State.framedBy.trans {s t u : State} (hst : s.framedBy t) (htu : t.framedBy u) :
    s.framedBy u where
  op := htu.op.trans hst.op
  wb := htu.wb.trans hst.wb
  response := htu.response.trans hst.response
  requests := htu.requests.trans hst.requests
  crcOut := htu.crcOut.trans hst.crcOut
  calls := hst.calls.trans htu.calls

/-- Taking an answer from the port is within the frame. -/
theorem framedBy_dropAnswers (s : State) (n : Nat) : s.framedBy (s.dropAnswers n) :=
  ⟨rfl, rfl, rfl, rfl, rfl, ⟨[], List.append_nil _⟩⟩

theorem framedBy_buildPhase (s : State) : s.framedBy (buildPhase s) := by
  obtain h | ⟨_, _, _, h⟩ := buildPhase_cases s <;> rw [h]
  · exact .refl s
  · exact ⟨rfl, rfl, rfl, rfl, rfl, ⟨_, rfl⟩⟩

theorem framedBy_acquirePhase (s : State) : s.framedBy (acquirePhase s) := by
  obtain h | ⟨_, _, h⟩ | ⟨_, _, _, h⟩ := acquirePhase_cases s <;> rw [h]
  · exact .refl s
  · exact framedBy_dropAnswers s 1
  · exact ⟨rfl, rfl, rfl, rfl, rfl, ⟨_, rfl⟩⟩

theorem framedBy_exchangePhase (s : State) : s.framedBy (exchangePhase s) := by
  obtain h | ⟨_, _, h⟩ | ⟨_, _, _, h⟩ := exchangePhase_cases s <;> rw [h]
  · exact .refl s
  · exact framedBy_dropAnswers s 1
  · exact ⟨rfl, rfl, rfl, rfl, rfl, ⟨_, rfl⟩⟩

theorem framedBy_releasePhase (s : State) : s.framedBy (releasePhase s) := by
  obtain h | ⟨_, _, h⟩ | ⟨_, _, _, h⟩ := releasePhase_cases s <;> rw [h]
  · exact .refl s
  · exact framedBy_dropAnswers s 1
  · exact ⟨rfl, rfl, rfl, rfl, rfl, ⟨[], List.append_nil _⟩⟩

theorem framedBy_verifyPhase (s : State) : s.framedBy (verifyPhase s) := by
  obtain h | ⟨_, h⟩ := verifyPhase_cases s <;> rw [h]
  · exact .refl s
  · exact ⟨rfl, rfl, rfl, rfl, rfl, ⟨[], List.append_nil _⟩⟩

theorem framedBy_untilUpdate (s : State) : s.framedBy (untilUpdate s) :=
  ((((framedBy_buildPhase s).trans (framedBy_acquirePhase _)).trans
    (framedBy_exchangePhase _)).trans (framedBy_releasePhase _)).trans (framedBy_verifyPhase _)

/-! ### The ports and the earlier calls (R41, R58) -/

/-- `t` has the requester's list and the checksum port of `s`, and the calls of `s` are its
first. -/
def State.portsKeptBy (s t : State) : Prop :=
  t.requests = s.requests ∧ t.crcOut = s.crcOut ∧ s.calls <+: t.calls

theorem State.portsKeptBy.refl (s : State) : s.portsKeptBy s := ⟨rfl, rfl, ⟨[], List.append_nil _⟩⟩

theorem State.portsKeptBy.trans {s t u : State} (hst : s.portsKeptBy t) (htu : t.portsKeptBy u) :
    s.portsKeptBy u :=
  ⟨htu.1.trans hst.1, htu.2.1.trans hst.2.1, hst.2.2.trans htu.2.2⟩

theorem State.framedBy.portsKeptBy {s t : State} (h : s.framedBy t) : s.portsKeptBy t :=
  ⟨h.requests, h.crcOut, h.calls⟩

theorem portsKeptBy_advance (p : Progress) (s : State) : s.portsKeptBy (advance p s) := by
  obtain ⟨_, h, _⟩ | ⟨_, _, h⟩ := advance_cases p s <;> rw [h]
  · exact .refl s
  · exact .refl s

theorem portsKeptBy_updatePhase (s : State) : s.portsKeptBy (updatePhase s) := by
  obtain h | ⟨p, _, _, h⟩ := updatePhase_cases s <;> rw [h]
  · exact .refl s
  · exact portsKeptBy_advance p (snapshot (p.txn s.params).dir s)

theorem portsKeptBy_runTxn (s : State) : s.portsKeptBy (runTxn s) :=
  (framedBy_untilUpdate s).portsKeptBy.trans (portsKeptBy_updatePhase _)

theorem portsKeptBy_runBlock (s : State) : s.portsKeptBy (runBlock s) :=
  runBlock_keeps (fun t h => h.trans (portsKeptBy_runTxn t)) s (.refl s)

/-- Settles O34: a command is a run of the block from its first progress, and no phase writes the
mode, a parameter, the requester's list or CRC_OUT, or takes a call back. -/
theorem commandsKeepModePortsAndHistory : Obligations.CommandsKeepModePortsAndHistory := by
  intro i s t hi h
  obtain ⟨hmode, hparams⟩ := exec_keeps_mode h
  obtain ⟨w, rfl, _⟩ | ⟨_, p, c, _, ht⟩ := exec_cases h
  · cases hi
  · have hentry : s.portsKeptBy (goTo p (if c then clearErrors s else s)) := by
      cases c <;> exact .refl s
    obtain ⟨hreq, hcrc, new, hnew⟩ := hentry.trans (portsKeptBy_runBlock _)
    rw [← ht] at hreq hcrc hnew
    exact ⟨hmode, hparams, hreq, hcrc, new, hnew.symm⟩

/-! ### The response (R93) -/

/-- A transaction has no phase to run in an idle block. -/
theorem runTxn_of_idle {s : State} (h : s.phase = .idle) : runTxn s = s := by
  simp [runTxn, buildPhase, acquirePhase, exchangePhase, releasePhase, verifyPhase, updatePhase, h]

/-- A command that goes on holds the response. -/
theorem advance_response (p : Progress) (s : State) :
    (advance p s).ready = true ∨ (advance p s).response = s.response := by
  obtain ⟨_, h, _⟩ | ⟨_, _, h⟩ := advance_cases p s <;> rw [h]
  · exact .inr rfl
  · exact .inl rfl

theorem runTxn_response (s : State) :
    (runTxn s).ready = true ∨ (runTxn s).response = s.response := by
  have hframe : (untilUpdate s).response = s.response := (framedBy_untilUpdate s).response
  rw [runTxn_eq_updatePhase, ← hframe]
  obtain h | ⟨p, _, _, h⟩ := updatePhase_cases (untilUpdate s) <;> rw [h]
  · exact .inr rfl
  · exact advance_response p _

/-- The block's run ends with the command complete or with the response it began with. -/
theorem runBlock_response (s : State) :
    (runBlock s).ready = true ∨ (runBlock s).response = s.response := by
  refine runBlock_keeps (P := fun t => t.ready = true ∨ t.response = s.response) ?_ s (.inr rfl)
  rintro t (hready | hresp)
  · rw [runTxn_of_idle ((ready_iff t).1 hready).1]
    exact .inl hready
  · exact (runTxn_response t).imp_right (·.trans hresp)

/-- Settles O35: whether the step begins a command or runs on with one, the run writes the response
only where it completes the command (R93). -/
theorem responseIsHeldUntilCompletion : Obligations.ResponseIsHeldUntilCompletion := by
  intro s t _ h hbusy
  have hrun : ∀ u : State, t = runBlock u → t.response = u.response := by
    rintro u rfl
    exact (runBlock_response u).resolve_left (by simp [hbusy])
  obtain ⟨_, _, rfl⟩ | ⟨_, r, rest, i, _, _, hi⟩ | ⟨_, ht⟩ := step_cases h
  · rfl
  · obtain ⟨w, _, rfl⟩ | ⟨_, p, c, _, ht⟩ := exec_cases hi
    · rfl
    · rw [hrun _ ht]
      cases c <;> rfl
  · exact hrun s ht

/-! ### The wire-break snapshot (R15, R89) -/

/-- The commands in progress that only read (R90, R105). -/
theorem onlyReads_cases {p : Progress} (h : Spec.onlyReads p = true) :
    (∃ a, p = .rdreg a) ∨ p = .getfltHi ∨ ∃ hi, p = .getfltLo hi := by
  cases p <;> simp [Spec.onlyReads] at h ⊢

theorem txn_dir_of_onlyReads {p : Progress} (h : Spec.onlyReads p = true) (ps : Params) :
    (p.txn ps).dir = .rd := by
  obtain ⟨a, rfl⟩ | rfl | ⟨hi, rfl⟩ := onlyReads_cases h <;> rfl

/-- No command in progress in `s` makes a write. -/
def State.onlyReads (s : State) : Prop := ∀ p, s.op = some p → Spec.onlyReads p = true

/-- A command that only reads goes on as one. -/
theorem advance_onlyReads {p : Progress} (h : Spec.onlyReads p = true) (s : State) :
    (advance p s).onlyReads := by
  intro q hq
  obtain ⟨a, rfl⟩ | rfl | ⟨hi, rfl⟩ := onlyReads_cases h <;> cases hq
  rfl

theorem advance_wb (p : Progress) (s : State) : (advance p s).wb = s.wb := by
  obtain ⟨_, h, _⟩ | ⟨_, _, h⟩ := advance_cases p s <;> rw [h] <;> rfl

/-- UPDATE writes WB on a write only. -/
theorem runTxn_onlyReads {s : State} (hs : s.onlyReads) :
    (runTxn s).onlyReads ∧ (runTxn s).wb = s.wb := by
  have hframe := framedBy_untilUpdate s
  have hreads : (untilUpdate s).onlyReads := fun p hp => hs p (hframe.op ▸ hp)
  rw [runTxn_eq_updatePhase]
  obtain h | ⟨p, _, hop, h⟩ := updatePhase_cases (untilUpdate s) <;> rw [h]
  · exact ⟨hreads, hframe.wb⟩
  · have hp := hreads p hop
    refine ⟨advance_onlyReads hp _, ?_⟩
    rw [txn_dir_of_onlyReads hp, advance_wb, snapshot_rd_wb, hframe.wb]

theorem runBlock_onlyReads_wb {s : State} (hs : s.onlyReads) : (runBlock s).wb = s.wb :=
  (runBlock_keeps (P := fun t => t.onlyReads ∧ t.wb = s.wb)
    (fun _ ⟨hreads, hwb⟩ =>
      ⟨(runTxn_onlyReads hreads).1, (runTxn_onlyReads hreads).2.trans hwb⟩)
    s ⟨hs, rfl⟩).2

/-- RDREG and GETFLT begin with a read. -/
theorem onlyReads_of_begins {i : Instr} {p : Progress} {c : Bool}
    (hi : (∃ a, i = .rdreg a) ∨ i = .getflt) (h : begins i p c) : Spec.onlyReads p = true := by
  obtain ⟨a, rfl⟩ | rfl := hi <;> obtain ⟨rfl, _⟩ := h <;> rfl

/-- Settles O18: the two commands make reads only, begun or resumed, and a read leaves WB (R89). -/
theorem readCommandsKeepWireBreak : Obligations.ReadCommandsKeepWireBreak := by
  refine ⟨fun i s t hi h => ?_, fun p s t hop hp h => ?_⟩
  · obtain ⟨w, rfl, _⟩ | ⟨_, p, c, hbegins, rfl⟩ := exec_cases h
    · simp at hi
    · have hreads : (goTo p (if c then clearErrors s else s)).onlyReads := by
        rintro q ⟨⟩
        exact onlyReads_of_begins hi hbegins
      rw [runBlock_onlyReads_wb hreads]
      cases c <;> rfl
  · have hbusy := not_ready_of_op hop
    obtain ⟨hready, _⟩ | ⟨hready, _⟩ | ⟨_, rfl⟩ := step_cases h
    · simp [hbusy] at hready
    · simp [hbusy] at hready
    · refine runBlock_onlyReads_wb fun q hq => ?_
      cases hop.symm.trans hq
      exact hp

end Sys2Proof.Machine

/-! The three invariants of a step (10_state.md, 20_memory.md).  Each is kept by every phase in a
form that also speaks of the phases passed inside a step; between two steps, where the block is idle
or waits for a call, that form is the invariant. -/

namespace Sys2Proof.Machine

/-! ### Packaged induction over a step -/

/-- A property that every phase, the entry of every command and both ports keep is kept by a
step. -/
theorem step_keeps {P : State → Prop}
    (hreq : ∀ s l, P s → P { s with requests := l })
    (hcrc : ∀ s c, P s → P { s with crcOut := c })
    (hentry : ∀ i p c s, begins i p c → s.ready = true → P s →
      P (goTo p (if c then clearErrors s else s)))
    (htxn : ∀ s, P s → P (runTxn s)) {s t : State} (h : step s = .next t) (hs : P s) : P t := by
  obtain ⟨_, _, rfl⟩ | ⟨_, r, rest, i, _, _, hi⟩ | ⟨_, rfl⟩ := step_cases h
  · exact hs
  · have hs' : P { s with requests := rest } := hreq s rest hs
    obtain ⟨w, _, rfl⟩ | ⟨hr, p, c, hbegins, rfl⟩ := exec_cases hi
    · exact hcrc _ _ hs'
    · exact runBlock_keeps htxn _ (hentry i p c _ hbegins hr hs')
  · exact runBlock_keeps htxn s hs

/-- Between two steps the block is idle or waits for a call (R17, R44). -/
theorem step_settled {s t : State} (hs : s.Inv) (h : step s = .next t) :
    t.phase = .idle ∨ t.phase.awaits = true := by
  have hrun : ∀ {u : State} {p : Progress}, u.op = some p → u.phase ≠ .idle →
      (runBlock u).phase = .idle ∨ (runBlock u).phase.awaits = true := fun hop hph =>
    (runBlock_settled hop hph).symm.imp And.left And.left
  obtain ⟨_, _, rfl⟩ | ⟨_, r, rest, i, _, _, hi⟩ | ⟨hbusy, rfl⟩ := step_cases h
  · exact hs.settled
  · obtain ⟨w, _, rfl⟩ | ⟨_, p, c, _, rfl⟩ := exec_cases hi
    · exact hs.settled
    · exact hrun (goTo_op _ p) (by simp)
  · obtain ⟨hwait, p, hop⟩ := hs.waiting hbusy
    refine hrun hop fun hidle => ?_
    rw [hidle] at hwait
    cases hwait

/-! ### The sequencer, the mode, LEN and the frame -/

/-- The invariant inside a step, where BUILD, VERIFY and UPDATE are passed too. -/
structure State.coherent (s : State) : Prop where
  idle_iff : s.phase = .idle ↔ s.op = none
  mode : s.crcEn = s.params.crcEn
  length : s.phase.awaits = true → s.len = frameLen s.crcEn
  tail : s.phase = .acquire ∨ s.phase = .exchange →
    s.buf.b2 = if s.crcEn then (crc5 (s.buf.b0 ++ s.buf.b1 ++ (0x00 : Byte))).setWidth 8 else 0x00
  channel : ∀ m v i, s.op = some (.setfilt m v i) → m.getLsbD i.val = true

theorem inv_iff_coherent (s : State) :
    s.Inv ↔ s.coherent ∧ (s.phase = .idle ∨ s.phase.awaits = true) := by
  constructor
  · intro h
    refine ⟨⟨h.idle_iff, h.mode, fun hw => ?_, h.tail, h.channel⟩, h.settled⟩
    rw [h.length hw]
    cases s.crcEn <;> rfl
  · rintro ⟨h, hsettled⟩
    refine ⟨h.idle_iff, hsettled, h.mode, fun hw => ?_, h.tail, h.channel⟩
    rw [h.length hw]
    cases s.crcEn <;> rfl

theorem State.coherent.dropAnswers {s : State} (h : s.coherent) (n : Nat) :
    (s.dropAnswers n).coherent :=
  ⟨h.idle_iff, h.mode, h.length, h.tail, h.channel⟩

/-- A block that is to build a transaction has only its mode and its channel to answer for. -/
theorem coherent_goTo {p : Progress} {s : State} (hmode : s.crcEn = s.params.crcEn)
    (hchannel : ∀ m v i, p = .setfilt m v i → m.getLsbD i.val = true) :
    (goTo p s).coherent where
  idle_iff := by simp
  mode := hmode
  length := by simp [Phase.awaits]
  tail := by simp
  channel m v i hop := hchannel m v i (Option.some.inj hop)

theorem coherent_complete {r : Response} {s : State} (hmode : s.crcEn = s.params.crcEn) :
    (complete r s).coherent where
  idle_iff := by simp
  mode := hmode
  length := by simp [Phase.awaits]
  tail := by simp
  channel := by simp

/-- SETFILT begins at a channel of its mask (R103). -/
theorem begins_channel {i : Instr} {p : Progress} {c : Bool} (h : begins i p c) :
    ∀ m v j, p = .setfilt m v j → m.getLsbD j.val = true := by
  rintro m v j rfl
  cases i with
  | crc5 w => exact h.elim
  | rdreg a => cases h.1
  | wrreg a d => cases h.1
  | init => cases h.1
  | refresh => cases h.1
  | setfilt m' v' =>
    obtain ⟨⟨j', hnext, hp⟩, _⟩ := h
    cases hp
    exact (nextChannel_some hnext).1
  | getflt => cases h.1

/-- A command goes on with SETFILT only at a channel of its mask (R103). -/
theorem advance_channel (p : Progress) (s : State) :
    ∀ m v j, (advance p s).op = some (.setfilt m v j) → m.getLsbD j.val = true := by
  intro m v j h
  have hinit : ∀ st ws, (initNext st ws s).op ≠ some (.setfilt m v j) := by
    intro st ws
    cases ws <;> simp [initNext]
  cases p with
  | rdreg a => cases h
  | wrreg a d => cases h
  | initStatus => exact absurd h (hinit _ _)
  | initWrite st a w rest => exact absurd h (hinit _ _)
  | initReadback st => cases h
  | refresh => cases h
  | setfilt m' v' i =>
    simp only [advance, setfiltNext] at h
    cases hnext : nextChannel m' (i.val + 1) with
    | none => simp [hnext] at h
    | some k =>
      simp only [hnext, goTo_op, Option.some.injEq, Progress.setfilt.injEq] at h
      obtain ⟨rfl, _, rfl⟩ := h
      exact (nextChannel_some hnext).1
  | getfltHi => cases h
  | getfltLo hi => cases h

theorem coherent_advance {s : State} (hmode : s.crcEn = s.params.crcEn) (p : Progress) :
    (advance p s).coherent := by
  obtain ⟨q, h, _⟩ | ⟨_, _, h⟩ := advance_cases p s
  · have hchannel := advance_channel p s
    rw [h] at hchannel ⊢
    exact coherent_goTo hmode fun m v j hq => hchannel m v j (congrArg some hq)
  · rw [h]
    exact coherent_complete hmode

/-- A command in progress leaves IDLE out. -/
theorem State.coherent.op_ne_none {s : State} (h : s.coherent) (hph : s.phase ≠ .idle) :
    s.op ≠ none :=
  fun hop => hph (h.idle_iff.2 hop)

/-- BUILD sets LEN to the mode's and puts the checksum behind the two bytes it builds (R84). -/
theorem coherent_buildPhase {s : State} (hs : s.coherent) : (buildPhase s).coherent := by
  obtain h | ⟨p, _, hop, h⟩ := buildPhase_cases s <;> rw [h]
  · exact hs
  · refine ⟨by simp [hop], hs.mode, fun _ => rfl, fun _ => ?_, hs.channel⟩
    cases hc : s.crcEn <;> simp [builtFrame, frameWord, hc]

/-- The acquire call's return leaves the frame that is then handed over. -/
theorem coherent_acquirePhase {s : State} (hs : s.coherent) : (acquirePhase s).coherent := by
  obtain h | ⟨_, _, h⟩ | ⟨r, hph, _, h⟩ := acquirePhase_cases s <;> rw [h]
  · exact hs
  · exact hs.dropAnswers 1
  · have hop := hs.op_ne_none (by simp [hph])
    exact ⟨by simp [acquired, hop], hs.mode, fun _ => hs.length (by simp [hph, Phase.awaits]),
      fun _ => hs.tail (.inl hph), hs.channel⟩

/-- The exchange overwrites the frame, and LEN stays the mode's until the release returns. -/
theorem coherent_exchangePhase {s : State} (hs : s.coherent) : (exchangePhase s).coherent := by
  obtain h | ⟨_, _, h⟩ | ⟨r, hph, _, h⟩ := exchangePhase_cases s <;> rw [h]
  · exact hs
  · exact hs.dropAnswers 1
  · have hop := hs.op_ne_none (by simp [hph])
    exact ⟨by simp [received, hop], hs.mode, fun _ => hs.length (by simp [hph, Phase.awaits]),
      by simp [received], hs.channel⟩

theorem coherent_releasePhase {s : State} (hs : s.coherent) : (releasePhase s).coherent := by
  obtain h | ⟨_, _, h⟩ | ⟨r, hph, _, h⟩ := releasePhase_cases s <;> rw [h]
  · exact hs
  · exact hs.dropAnswers 1
  · have hop := hs.op_ne_none (by simp [hph])
    exact ⟨by simp [released, hop], hs.mode, by simp [released, Phase.awaits],
      by simp [released], hs.channel⟩

theorem coherent_verifyPhase {s : State} (hs : s.coherent) : (verifyPhase s).coherent := by
  obtain h | ⟨hph, h⟩ := verifyPhase_cases s <;> rw [h]
  · exact hs
  · have hop := hs.op_ne_none (by simp [hph])
    exact ⟨by simp [hop], hs.mode, by simp [Phase.awaits], by simp, hs.channel⟩

theorem coherent_updatePhase {s : State} (hs : s.coherent) : (updatePhase s).coherent := by
  obtain h | ⟨p, _, _, h⟩ := updatePhase_cases s <;> rw [h]
  · exact hs
  · exact coherent_advance (s := snapshot (p.txn s.params).dir s) hs.mode p

theorem coherent_runTxn {s : State} (hs : s.coherent) : (runTxn s).coherent :=
  runTxn_keeps hs (fun _ => coherent_buildPhase) (fun _ => coherent_acquirePhase)
    (fun _ => coherent_exchangePhase) (fun _ => coherent_releasePhase)
    (fun _ => coherent_verifyPhase) (fun _ => coherent_updatePhase)

/-- An accepted command begins in a coherent state (R80). -/
theorem coherent_entry {i : Instr} {p : Progress} {c : Bool} {s : State} (h : begins i p c)
    (hs : s.coherent) : (goTo p (if c then clearErrors s else s)).coherent := by
  refine coherent_goTo ?_ (begins_channel h)
  cases c <;> exact hs.mode

theorem coherent_with_requests {s : State} (h : s.coherent) (l : List Request) :
    ({ s with requests := l } : State).coherent :=
  ⟨h.idle_iff, h.mode, h.length, h.tail, h.channel⟩

theorem coherent_with_crcOut {s : State} (h : s.coherent) (c : BitVec 5) :
    ({ s with crcOut := c } : State).coherent :=
  ⟨h.idle_iff, h.mode, h.length, h.tail, h.channel⟩

theorem step_coherent {s t : State} (h : step s = .next t) (hs : s.coherent) : t.coherent :=
  step_keeps (P := State.coherent) (fun _ l hs => coherent_with_requests hs l)
    (fun _ c hs => coherent_with_crcOut hs c) (fun _ _ _ _ hb _ hs => coherent_entry hb hs)
    (fun _ => coherent_runTxn) h hs

/-- Settles O39: every phase keeps the sequencer, the mode, LEN and the frame consistent, and a step
ends where the block is idle or waits. -/
theorem everyStepKeepsTheInvariant : Obligations.EveryStepKeepsTheInvariant := by
  intro s t hs h
  exact (inv_iff_coherent t).2
    ⟨step_coherent h ((inv_iff_coherent s).1 hs).1, step_settled hs h⟩

/-! ### The order of the calls -/

/-- The last call, as a phase of `linkStep`, that a block in a phase can have made: a transaction
is built after a release or before any call, and VERIFY and UPDATE follow a release. -/
def Phase.follows : Phase → Phase → Prop
  | .idle, ph => ph = .idle ∨ ph = .release
  | .build, ph => ph = .idle ∨ ph = .release
  | .acquire, ph => ph = .acquire
  | .exchange, ph => ph = .exchange
  | .release, ph => ph = .release
  | .verify, ph => ph = .release
  | .update, ph => ph = .release

/-- The order of the link inside a step, where BUILD, VERIFY and UPDATE are passed too. -/
def State.linked (s : State) : Prop :=
  ∃ ph, s.calls.foldlM linkStep .idle = some ph ∧ s.phase.follows ph

theorem linkInv_iff_linked {s : State} (h : s.phase = .idle ∨ s.phase.awaits = true) :
    s.LinkInv ↔ s.linked := by
  refine exists_congr fun ph => and_congr_right fun _ => ?_
  obtain hidle | hawaits := h
  · simp [hidle, Phase.follows, eq_comm]
  · obtain hp | hp | hp := (Phase.awaits_iff _).1 hawaits <;> simp [hp, Phase.follows, eq_comm]

/-- A call that the order allows in the phase it is made in leads to the phase it enters. -/
theorem linked_issue {c : Call} {ph : Phase} {s : State} (hs : s.linked)
    (hstep : ∀ last, s.phase.follows last → linkStep last c = some ph) (hph : ph.follows ph) :
    (issue c ph s).linked := by
  obtain ⟨last, hcalls, hlast⟩ := hs
  refine ⟨ph, ?_, hph⟩
  simp [List.foldlM_append, hcalls, hstep last hlast]

/-- Where no call is made, only the phase counts. -/
theorem State.linked.of_calls_eq {s t : State} (hs : s.linked) (hcalls : t.calls = s.calls)
    (hph : ∀ last, s.phase.follows last → t.phase.follows last) : t.linked := by
  obtain ⟨last, hfold, hlast⟩ := hs
  exact ⟨last, by rwa [hcalls], hph last hlast⟩

theorem linked_buildPhase {s : State} (hs : s.linked) : (buildPhase s).linked := by
  obtain h | ⟨p, hph, _, h⟩ := buildPhase_cases s <;> rw [h]
  · exact hs
  · have hbuilt : (buildFrame (p.txn s.params) s).linked := hs
    refine linked_issue hbuilt (fun last hlast => ?_) rfl
    rw [buildFrame_phase, hph] at hlast
    obtain rfl | rfl := hlast <;> rfl

theorem linked_acquirePhase {s : State} (hs : s.linked) : (acquirePhase s).linked := by
  obtain h | ⟨_, _, h⟩ | ⟨r, hph, _, h⟩ := acquirePhase_cases s <;> rw [h]
  · exact hs
  · exact hs
  · have hrecorded : (recordError .comm (!r.ok) (s.dropAnswers 1)).linked := hs
    refine linked_issue hrecorded (fun last hlast => ?_) rfl
    rw [recordError_phase, dropAnswers_phase, hph] at hlast
    cases hlast
    rfl

theorem linked_exchangePhase {s : State} (hs : s.linked) : (exchangePhase s).linked := by
  obtain h | ⟨_, _, h⟩ | ⟨r, hph, _, h⟩ := exchangePhase_cases s <;> rw [h]
  · exact hs
  · exact hs
  · have hrecorded : (recordError .comm (!r.ok) (receive r.rx (s.dropAnswers 1))).linked := hs
    refine linked_issue hrecorded (fun last hlast => ?_) rfl
    rw [recordError_phase, receive_phase, dropAnswers_phase, hph] at hlast
    cases hlast
    rfl

theorem linked_releasePhase {s : State} (hs : s.linked) : (releasePhase s).linked := by
  obtain h | ⟨_, _, h⟩ | ⟨r, hph, _, h⟩ := releasePhase_cases s <;> rw [h]
  · exact hs
  · exact hs
  · refine hs.of_calls_eq rfl fun last hlast => ?_
    rwa [hph] at hlast

theorem linked_verifyPhase {s : State} (hs : s.linked) : (verifyPhase s).linked := by
  obtain h | ⟨hph, h⟩ := verifyPhase_cases s <;> rw [h]
  · exact hs
  · refine hs.of_calls_eq rfl fun last hlast => ?_
    rwa [hph] at hlast

/-- The next transaction is built, or the command completes, after a release. -/
theorem linked_updatePhase {s : State} (hs : s.linked) : (updatePhase s).linked := by
  obtain h | ⟨p, hph, _, h⟩ := updatePhase_cases s <;> rw [h]
  · exact hs
  · have hafter : ∀ last, s.phase.follows last → last = .idle ∨ last = .release := by
      rw [hph]
      exact fun _ => .inr
    obtain ⟨_, h, _⟩ | ⟨_, _, h⟩ := advance_cases p (snapshot (p.txn s.params).dir s) <;> rw [h]
    · exact hs.of_calls_eq rfl hafter
    · exact hs.of_calls_eq rfl hafter

theorem linked_runTxn {s : State} (hs : s.linked) : (runTxn s).linked :=
  runTxn_keeps hs (fun _ => linked_buildPhase) (fun _ => linked_acquirePhase)
    (fun _ => linked_exchangePhase) (fun _ => linked_releasePhase)
    (fun _ => linked_verifyPhase) (fun _ => linked_updatePhase)

/-- A command is accepted before any call or after a release. -/
theorem linked_entry (p : Progress) (c : Bool) {s : State} (hr : s.ready = true) (hs : s.linked) :
    (goTo p (if c then clearErrors s else s)).linked := by
  refine hs.of_calls_eq (by cases c <;> rfl) fun last hlast => ?_
  rwa [((ready_iff s).1 hr).1] at hlast

theorem step_linked {s t : State} (h : step s = .next t) (hs : s.linked) : t.linked :=
  step_keeps (P := State.linked) (fun _ _ hs => hs) (fun _ _ hs => hs)
    (fun _ p c _ _ hr hs => linked_entry p c hr hs) (fun _ => linked_runTxn) h hs

/-- Settles O40: every phase makes at most the call that the order of the link allows next. -/
theorem everyStepKeepsTheLinkOrder : Obligations.EveryStepKeepsTheLinkOrder := by
  intro s t hinv hs h
  exact (linkInv_iff_linked (step_settled hinv h)).2
    (step_linked h ((linkInv_iff_linked hinv.settled).1 hs))

/-! ### The frames on the link -/

/-- The invariant of the link holds with the coherence that its frames come from. -/
def State.wired (s : State) : Prop := s.coherent ∧ s.WireInv

theorem WireInv_issue {c : Call} {ph : Phase} {s : State} (hs : s.WireInv)
    (hc : ∀ chip tx, .exchange chip tx = c →
      chip = s.params.chipAddr ∧ sentFrameOk s.params.crcEn tx) : (issue c ph s).WireInv := by
  intro chip tx hmem
  rw [issue_calls, List.mem_append, List.mem_singleton] at hmem
  exact hmem.elim (hs chip tx) (hc chip tx)

/-- A coherent block that waits for the link hands over a frame of its mode (R24, R50). -/
theorem State.coherent.sent_frame_ok {s : State} (hs : s.coherent) (hph : s.phase = .acquire) :
    sentFrameOk s.params.crcEn (sentBytes s.buf s.len) := by
  have hlen := hs.length (by simp [hph, Phase.awaits])
  have htail := hs.tail (.inl hph)
  refine ⟨s.buf.b0, s.buf.b1, ?_⟩
  rw [hlen, sentBytes_frameLen, ← hs.mode, htail]
  cases s.crcEn <;> rfl

/-- Only the return of the acquire call makes an exchange. -/
theorem wired_acquirePhase {s : State} (hs : s.wired) : (acquirePhase s).wired := by
  obtain ⟨hcoh, hwire⟩ := hs
  refine ⟨coherent_acquirePhase hcoh, ?_⟩
  obtain h | ⟨_, _, h⟩ | ⟨r, hph, _, h⟩ := acquirePhase_cases s <;> rw [h]
  · exact hwire
  · exact hwire
  · have hrecorded : (recordError .comm (!r.ok) (s.dropAnswers 1)).WireInv := hwire
    refine WireInv_issue hrecorded ?_
    rintro chip tx ⟨⟩
    exact ⟨rfl, hcoh.sent_frame_ok hph⟩

theorem wired_buildPhase {s : State} (hs : s.wired) : (buildPhase s).wired := by
  obtain ⟨hcoh, hwire⟩ := hs
  refine ⟨coherent_buildPhase hcoh, ?_⟩
  obtain h | ⟨p, _, _, h⟩ := buildPhase_cases s <;> rw [h]
  · exact hwire
  · have hbuilt : (buildFrame (p.txn s.params) s).WireInv := hwire
    exact WireInv_issue hbuilt (by simp)

theorem wired_exchangePhase {s : State} (hs : s.wired) : (exchangePhase s).wired := by
  obtain ⟨hcoh, hwire⟩ := hs
  refine ⟨coherent_exchangePhase hcoh, ?_⟩
  obtain h | ⟨_, _, h⟩ | ⟨r, _, _, h⟩ := exchangePhase_cases s <;> rw [h]
  · exact hwire
  · exact hwire
  · have hrecorded : (recordError .comm (!r.ok) (receive r.rx (s.dropAnswers 1))).WireInv := hwire
    exact WireInv_issue hrecorded (by simp)

theorem wired_releasePhase {s : State} (hs : s.wired) : (releasePhase s).wired := by
  obtain ⟨hcoh, hwire⟩ := hs
  refine ⟨coherent_releasePhase hcoh, ?_⟩
  obtain h | ⟨_, _, h⟩ | ⟨_, _, _, h⟩ := releasePhase_cases s <;> rw [h] <;> exact hwire

theorem wired_verifyPhase {s : State} (hs : s.wired) : (verifyPhase s).wired := by
  obtain ⟨hcoh, hwire⟩ := hs
  refine ⟨coherent_verifyPhase hcoh, ?_⟩
  obtain h | ⟨_, h⟩ := verifyPhase_cases s <;> rw [h] <;> exact hwire

theorem wired_updatePhase {s : State} (hs : s.wired) : (updatePhase s).wired := by
  obtain ⟨hcoh, hwire⟩ := hs
  refine ⟨coherent_updatePhase hcoh, ?_⟩
  obtain h | ⟨p, _, _, h⟩ := updatePhase_cases s <;> rw [h]
  · exact hwire
  · obtain ⟨_, h, _⟩ | ⟨_, _, h⟩ := advance_cases p (snapshot (p.txn s.params).dir s) <;>
      rw [h] <;> exact hwire

theorem wired_runTxn {s : State} (hs : s.wired) : (runTxn s).wired :=
  runTxn_keeps hs (fun _ => wired_buildPhase) (fun _ => wired_acquirePhase)
    (fun _ => wired_exchangePhase) (fun _ => wired_releasePhase)
    (fun _ => wired_verifyPhase) (fun _ => wired_updatePhase)

theorem step_wired {s t : State} (h : step s = .next t) (hs : s.wired) : t.wired := by
  refine step_keeps (P := State.wired) ?_ ?_ ?_ (fun _ => wired_runTxn) h hs
  · exact fun _ l ⟨hcoh, hwire⟩ => ⟨coherent_with_requests hcoh l, hwire⟩
  · exact fun _ c ⟨hcoh, hwire⟩ => ⟨coherent_with_crcOut hcoh c, hwire⟩
  · rintro i p c s hbegins _ ⟨hcoh, hwire⟩
    exact ⟨coherent_entry hbegins hcoh, by cases c <;> exact hwire⟩

/-- Settles O41: an exchange is made by the return of the acquire call alone, and then the buffer
still holds the frame that BUILD made. -/
theorem everySentFrameCarriesItsChecksum : Obligations.EverySentFrameCarriesItsChecksum := by
  intro s t hinv hwire h
  exact (step_wired h ⟨((inv_iff_coherent s).1 hinv).1, hwire⟩).2

/-! ### After reset -/

/-- Settles O42: after reset the block is idle in the mode of its parameter and has made no call
(R22, R140). -/
theorem resetMeetsTheInvariants : Obligations.ResetMeetsTheInvariants := by
  refine ⟨⟨?_, .inl rfl, rfl, ?_, ?_, ?_⟩, ⟨.idle, rfl, .inl rfl⟩, ?_⟩
  · simp [State.reset]
  · simp [State.reset, Phase.awaits]
  · simp [State.reset]
  · simp [State.reset]
  · simp [State.WireInv, State.reset]

/-- Settles O36: reset gives every value named, and an idle block with nothing presented waits
(R22, R140). -/
theorem resetLeavesTheBlockWaiting : Obligations.ResetLeavesTheBlockWaiting :=
  ⟨rfl, rfl, rfl, rfl, rfl, stepRunsThePresentedInstruction.2 State.reset rfl rfl⟩

/-! ### Codes and visible values -/

/-- Settles O37: the codes are the table's, and seven phases use the codes below 7 (R17, D9). -/
theorem phaseCodesFollowTheTable : Obligations.PhaseCodesFollowTheTable := by
  refine ⟨rfl, rfl, rfl, rfl, rfl, rfl, rfl, fun p => ?_⟩
  cases p <;> decide

/-- Settles O38: a block shows its outputs exactly when it is ready, that is idle with no operation
in progress (R20, D20). -/
theorem onlyAnIdleBlockIsVisible : Obligations.OnlyAnIdleBlockIsVisible := by
  refine ⟨fun s hph hop => ?_, fun s hbusy => ?_⟩
  · have hr : s.ready = true := (ready_iff s).2 ⟨hph, hop⟩
    simp [State.visible, hr]
  · have hr : s.ready ≠ true := fun hr => by
      obtain ⟨hph, hop⟩ := (ready_iff s).1 hr
      exact hbusy.elim (· hph) (· hop)
    simp [State.visible, hr]

end Sys2Proof.Machine

/-! The laws of the checksum (40_checksum.md).  The checksum, the table sum, the serial routine and
the product by P are all additive over GF(2), up to the marker; so two of them agree on every word as
soon as they agree on the words with a single bit set. -/

namespace Sys2Proof.Machine

/-! ### Words as sums of single bits -/

/-- A summand that a bit selects is additive in that bit. -/
theorem select_xor {n : Nat} (a b : Bool) (t : BitVec n) :
    (if a ^^ b then t else 0) = (if a then t else 0) ^^^ (if b then t else 0) := by
  cases a <;> cases b <;> simp

/-- The low `k + 1` bits are the low `k` bits and bit `k`. -/
theorem lowBits_succ {n : Nat} (w : BitVec n) (k : Nat) :
    (w.setWidth (k + 1)).setWidth n =
      (w.setWidth k).setWidth n ^^^ (if w.getLsbD k then (1 : BitVec n) <<< k else 0) := by
  refine BitVec.eq_of_getLsbD_eq fun j hj => ?_
  have hone : ((1 : BitVec n) <<< k).getLsbD j = (decide (k < n) && decide (k = j)) :=
    BitVec.getLsbD_twoPow k j
  have hbit : (if w.getLsbD k then (1 : BitVec n) <<< k else 0).getLsbD j =
      (decide (k = j) && w.getLsbD j) := by
    by_cases heq : k = j
    · subst heq
      cases w.getLsbD k <;> simp [hj]
    · cases w.getLsbD k
      · simp [heq]
      · simpa [heq] using hone
  rw [BitVec.getLsbD_xor, hbit]
  obtain hlt | rfl | hgt := Nat.lt_trichotomy j k
  · simp [hj, hlt, Nat.lt_succ_of_lt hlt, Nat.ne_of_gt hlt]
  · simp [hj]
  · simp [Nat.not_lt_of_gt hgt, Nat.ne_of_lt hgt, show ¬ j < k + 1 by omega]

/-- A property that holds of 0 and of every single bit, and of a sum when it holds of both parts,
holds of every word. -/
theorem xor_induction {n : Nat} {P : BitVec n → Prop} (hzero : P 0)
    (hxor : ∀ a b, P a → P b → P (a ^^^ b)) (hbit : ∀ k, k < n → P ((1 : BitVec n) <<< k))
    (w : BitVec n) : P w := by
  have hlow : ∀ k, k ≤ n → P ((w.setWidth k).setWidth n) := by
    intro k
    induction k with
    | zero =>
      have hempty : (w.setWidth 0).setWidth n = 0 := by
        rw [BitVec.eq_nil (w.setWidth 0)]
        exact BitVec.setWidth_ofNat_of_le_of_lt n.zero_le Nat.one_pos
      rw [hempty]
      exact fun _ => hzero
    | succ k ih =>
      intro hk
      rw [lowBits_succ]
      refine hxor _ _ (ih (by omega)) ?_
      split
      · exact hbit k hk
      · exact hzero
  simpa using hlow n (Nat.le_refl n)

/-- The additive part of the checksum. -/
def linearCrc (w : BitVec 24) : BitVec 5 := crc5 w ^^^ 0b00111

theorem crc5_eq_linearCrc (w : BitVec 24) : crc5 w = linearCrc w ^^^ 0b00111 := by
  simp [linearCrc]

theorem linearCrc_xor (a b : BitVec 24) :
    linearCrc (a ^^^ b) = linearCrc a ^^^ linearCrc b := by
  simp only [linearCrc, crc5_xor]
  ac_rfl

/-- An additive function that agrees with the checksum's additive part on the single bits agrees
with it on every word. -/
theorem linearCrc_unique (f : BitVec 24 → BitVec 5) (hxor : ∀ a b, f (a ^^^ b) = f a ^^^ f b)
    (hbit : ∀ k, k < 24 → linearCrc ((1 : BitVec 24) <<< k) = f ((1 : BitVec 24) <<< k))
    (w : BitVec 24) : linearCrc w = f w := by
  have hzero : ∀ g : BitVec 24 → BitVec 5, (∀ a b, g (a ^^^ b) = g a ^^^ g b) → g 0 = 0 :=
    fun g hg => by simpa using hg 0 0
  refine xor_induction (P := fun w => linearCrc w = f w) ?_ (fun a b ha hb => ?_) hbit w
  · rw [hzero _ linearCrc_xor, hzero f hxor]
  · rw [linearCrc_xor, hxor, ha, hb]

/-! ### The affine form and the table (R74) -/

/-- Settles O5: the affine law follows because the stepwise process is linear (R74). -/
theorem crc5OfXorIsAffine : Obligations.Crc5OfXorIsAffine := crc5_xor

theorem tableSum_xor (a b : BitVec 24) (k : Nat) (ts : List (BitVec 5)) :
    Spec.tableSum (a ^^^ b) k ts = Spec.tableSum a k ts ^^^ Spec.tableSum b k ts := by
  induction ts generalizing k with
  | nil => exact BitVec.xor_self.symm
  | cons t ts ih =>
    simp only [Spec.tableSum, ih, BitVec.getLsbD_xor, select_xor]
    ac_rfl

/-- The entries of the table are the checksums of the single bits. -/
theorem linearCrc_single_bit : ∀ k, k < 24 →
    linearCrc ((1 : BitVec 24) <<< k) = Spec.tableSum ((1 : BitVec 24) <<< k) 5 Spec.table := by
  decide +kernel

/-- Settles O4: the table sum is additive, and its entries are the checksums of the single bits
(R74). -/
theorem crc5IsTheTableSum : Obligations.Crc5IsTheTableSum := by
  intro w
  rw [crc5_eq_linearCrc, linearCrc_unique (Spec.tableSum · 5 Spec.table)
    (tableSum_xor · · 5 Spec.table) linearCrc_single_bit w]
  exact BitVec.xor_comm _ _

/-! ### The serial routine (R78) -/

/-- One step of the serial routine: the shift, and the polynomial where the leaving bit and the
entering one differ. -/
def serialStep (r : BitVec 5) (b : Bool) : BitVec 5 :=
  if b != r.getLsbD 4 then r <<< 1 ^^^ 0b10101 else r <<< 1

theorem serial_succ (m : BitVec 19) (n : Nat) (r : BitVec 5) :
    Spec.serial m (n + 1) r = Spec.serial m n (serialStep r (m.getLsbD n)) := rfl

theorem serialStep_xor (r r' : BitVec 5) (b b' : Bool) :
    serialStep (r ^^^ r') (b ^^ b') = serialStep r b ^^^ serialStep r' b' := by
  have hstep : ∀ (x : BitVec 5) (c : Bool),
      serialStep x c = x <<< 1 ^^^ (if c ^^ x.getLsbD 4 then 0b10101 else 0) := fun x c => by
    unfold serialStep
    generalize x.getLsbD 4 = top
    cases c <;> cases top <;> simp
  have hbit : (b ^^ b' ^^ (r.getLsbD 4 ^^ r'.getLsbD 4)) =
      ((b ^^ r.getLsbD 4) ^^ (b' ^^ r'.getLsbD 4)) := by
    simp only [Bool.xor_assoc, Bool.xor_left_comm b']
  rw [hstep, hstep, hstep, BitVec.getLsbD_xor, hbit, select_xor, BitVec.shiftLeft_xor_distrib]
  ac_rfl

theorem serial_xor (m m' : BitVec 19) (n : Nat) (r r' : BitVec 5) :
    Spec.serial (m ^^^ m') n (r ^^^ r') = Spec.serial m n r ^^^ Spec.serial m' n r' := by
  induction n generalizing r r' with
  | zero => rfl
  | succ n ih => rw [serial_succ, BitVec.getLsbD_xor, serialStep_xor, ih, serial_succ, serial_succ]

/-- The serial routine over the payload of a word, from the initial value 0. -/
def serialCrc (w : BitVec 24) : BitVec 5 := Spec.serial (w.extractLsb' 5 19) 19 0

theorem serialCrc_xor (a b : BitVec 24) : serialCrc (a ^^^ b) = serialCrc a ^^^ serialCrc b := by
  rw [serialCrc, BitVec.extractLsb'_xor]
  exact serial_xor _ _ 19 0 0

theorem serialCrc_single_bit : ∀ k, k < 24 →
    linearCrc ((1 : BitVec 24) <<< k) = serialCrc ((1 : BitVec 24) <<< k) := by
  decide +kernel

/-- Preloading adds the same remainder to every message, and 0x07 is not the remainder that 0x07
adds. -/
theorem serial_preloaded_ne (m : BitVec 19) :
    Spec.serial m 19 0x07 ≠ Spec.serial m 19 0 ^^^ 0b00111 := by
  have hpreload : Spec.serial m 19 0x07 = Spec.serial m 19 0 ^^^ Spec.serial 0 19 0x07 := by
    simpa using serial_xor m 0 19 0 0x07
  have hne : Spec.serial 0 19 0x07 ≠ 0b00111 := by decide +kernel
  rw [hpreload]
  exact fun h => hne ((BitVec.xor_right_inj _).1 h)

/-- Settles O6: the serial routine is additive and agrees with the checksum on the single bits
(R78). -/
theorem crc5IsTheSerialRoutine : Obligations.Crc5IsTheSerialRoutine := by
  refine ⟨fun w => ?_, serial_preloaded_ne⟩
  rw [crc5_eq_linearCrc, linearCrc_unique serialCrc serialCrc_xor serialCrc_single_bit w]
  rfl

/-! ### The remainder form (R73) -/

theorem mulPoly_xor (q q' : BitVec 19) (n : Nat) :
    Spec.mulPoly (q ^^^ q') n = Spec.mulPoly q n ^^^ Spec.mulPoly q' n := by
  induction n with
  | zero => exact BitVec.xor_self.symm
  | succ n ih =>
    simp only [Spec.mulPoly, ih, BitVec.getLsbD_xor, select_xor]
    ac_rfl

/-- The multiples of P by a single power of x have remainder 0. -/
theorem polyRem_shifted_poly : ∀ n, n < 19 → polyRem ((0b110101 : BitVec 24) <<< n) = 0 := by
  decide +kernel

/-- So has every multiple of P. -/
theorem polyRem_mulPoly (q : BitVec 19) (n : Nat) (hn : n ≤ 19) :
    polyRem (Spec.mulPoly q n) = 0 := by
  have hzero : polyRem 0 = 0 := by decide +kernel
  induction n with
  | zero => exact hzero
  | succ n ih =>
    rw [Spec.mulPoly, polyRem_xor, ih (by omega)]
    refine BitVec.zero_xor.trans ?_
    split
    · exact polyRem_shifted_poly n hn
    · exact hzero

/-- A word of degree below 5 is its own remainder. -/
theorem polyRem_setWidth (r : BitVec 5) : polyRem (r.setWidth 24) = r := by
  revert r
  decide +kernel

/-- `v` is a multiple of P plus its remainder. -/
def hasQuotient (v : BitVec 24) : Prop :=
  ∃ q : BitVec 19, v = Spec.mulPoly q 19 ^^^ (polyRem v).setWidth 24

theorem hasQuotient_xor {a b : BitVec 24} (ha : hasQuotient a) (hb : hasQuotient b) :
    hasQuotient (a ^^^ b) := by
  obtain ⟨qa, ha⟩ := ha
  obtain ⟨qb, hb⟩ := hb
  refine ⟨qa ^^^ qb, ?_⟩
  rw [mulPoly_xor, polyRem_xor, BitVec.setWidth_xor]
  calc a ^^^ b
      = (Spec.mulPoly qa 19 ^^^ (polyRem a).setWidth 24) ^^^
          (Spec.mulPoly qb 19 ^^^ (polyRem b).setWidth 24) := by rw [← ha, ← hb]
    _ = _ := by ac_rfl

theorem hasQuotient_setWidth (r : BitVec 5) : hasQuotient (r.setWidth 24) := by
  have hzero : Spec.mulPoly 0 19 = 0 := by decide +kernel
  refine ⟨0, ?_⟩
  rw [hzero, polyRem_setWidth]
  exact BitVec.zero_xor.symm

theorem hasQuotient_shifted_poly {j : Nat} (hj : j < 19) :
    hasQuotient ((0b110101 : BitVec 24) <<< j) := by
  have hproduct : ∀ j, j < 19 →
      Spec.mulPoly ((1 : BitVec 19) <<< j) 19 = (0b110101 : BitVec 24) <<< j := by
    decide +kernel
  refine ⟨(1 : BitVec 19) <<< j, ?_⟩
  rw [polyRem_shifted_poly j hj, hproduct j hj]
  exact BitVec.xor_zero.symm

/-- A power of x from the fifth up is a shifted P plus three lower powers: one step of the long
division. -/
theorem shifted_one_eq_poly_xor : ∀ j, j < 19 → (1 : BitVec 24) <<< (j + 5) =
    (0b110101 : BitVec 24) <<< j ^^^ (1 : BitVec 24) <<< (j + 4) ^^^ (1 : BitVec 24) <<< (j + 2) ^^^
      (1 : BitVec 24) <<< j := by
  decide +kernel

theorem hasQuotient_single_bit (k : Nat) (hk : k < 24) : hasQuotient ((1 : BitVec 24) <<< k) := by
  have hlow : ∀ k, k < 5 → (1 : BitVec 24) <<< k = ((1 : BitVec 5) <<< k).setWidth 24 := by decide
  induction k using Nat.strongRecOn with
  | ind k ih =>
    by_cases h5 : k < 5
    · rw [hlow k h5]
      exact hasQuotient_setWidth _
    · obtain ⟨j, rfl⟩ : ∃ j, k = j + 5 := ⟨k - 5, by omega⟩
      have hj : j < 19 := by omega
      rw [shifted_one_eq_poly_xor j hj]
      exact hasQuotient_xor (hasQuotient_xor (hasQuotient_xor (hasQuotient_shifted_poly hj)
        (ih (j + 4) (by omega) (by omega))) (ih (j + 2) (by omega) (by omega)))
        (ih j (by omega) (by omega))

/-- Every word can be divided by P. -/
theorem hasQuotient_all (v : BitVec 24) : hasQuotient v :=
  xor_induction (hasQuotient_setWidth 0) (fun _ _ => hasQuotient_xor) hasQuotient_single_bit v

/-- A word is its payload and its low five bits. -/
theorem payload_append_low (w : BitVec 24) : w.extractLsb' 5 19 ++ w.extractLsb' 0 5 = w :=
  (BitVec.extractLsb'_append_extractLsb'_eq_extractLsb' rfl).trans BitVec.extractLsb'_eq_self

/-- Forcing the low five bits to the marker, by masks or by parts (R70). -/
theorem mask_or_eq_markWord (w : BitVec 24) : (w &&& 0xFFFFE0) ||| 0b00111 = markWord w := by
  have hpayload : ((w &&& 0xFFFFE0) ||| 0b00111).extractLsb' 5 19 = w.extractLsb' 5 19 :=
    payload_mask_or w marker
  have hlow : ((w &&& 0xFFFFE0) ||| 0b00111).extractLsb' 0 5 = marker := by
    have hmask : (0xFFFFE0 : BitVec 24).extractLsb' 0 5 = 0 := by decide
    rw [BitVec.extractLsb'_or, BitVec.extractLsb'_and, hmask]
    exact (congrArg (· ||| marker) BitVec.and_zero).trans BitVec.zero_or
  rw [← payload_append_low ((w &&& 0xFFFFE0) ||| 0b00111), hpayload, hlow]
  rfl

/-- Settles O3: a multiple of P has remainder 0, so what is added to it is the remainder; and every
word has a quotient, because every power of x has (R73). -/
theorem crc5IsThePolynomialRemainder : Obligations.Crc5IsThePolynomialRemainder := by
  intro w r
  rw [mask_or_eq_markWord, crc5_eq_polyRem]
  constructor
  · rintro ⟨q, hq⟩
    rw [hq, polyRem_xor, polyRem_mulPoly q 19 (Nat.le_refl 19), polyRem_setWidth]
    exact BitVec.zero_xor.symm
  · rintro rfl
    exact hasQuotient_all (markWord w)

/-! ### Error detection (R75, R76) -/

/-- What an error pattern adds to the difference between a frame's checksum and its low five
bits. -/
def syndrome (e : BitVec 24) : BitVec 5 := linearCrc e ^^^ e.extractLsb' 0 5

theorem syndrome_xor (a b : BitVec 24) : syndrome (a ^^^ b) = syndrome a ^^^ syndrome b := by
  simp only [syndrome, linearCrc_xor, BitVec.extractLsb'_xor]
  ac_rfl

theorem passes_iff_syndrome (f : BitVec 24) : Spec.passes f ↔ syndrome f = 0b00111 := by
  have hsyn : syndrome f = (crc5 f ^^^ f.extractLsb' 0 5) ^^^ 0b00111 := by
    simp only [syndrome, linearCrc]
    ac_rfl
  rw [hsyn, Spec.passes, ← BitVec.xor_eq_zero_iff (x := crc5 f)]
  constructor
  · intro h
    rw [h]
    exact BitVec.zero_xor
  · intro h
    exact (BitVec.xor_left_inj _).1 (h.trans BitVec.zero_xor.symm)

/-- An error pattern goes undetected exactly when its syndrome is 0, whatever the frame. -/
theorem passes_xor_iff {f : BitVec 24} (hf : Spec.passes f) (e : BitVec 24) :
    Spec.passes (f ^^^ e) ↔ syndrome e = 0 := by
  rw [passes_iff_syndrome] at hf ⊢
  rw [syndrome_xor, hf]
  constructor
  · intro h
    exact (BitVec.xor_right_inj _).1 (h.trans BitVec.xor_zero.symm)
  · intro h
    rw [h]
    exact BitVec.xor_zero

/-- Bits that two patterns share cancel in pairs. -/
theorem weight_xor (a b : BitVec 24) :
    Spec.weight (a ^^^ b) % 2 = (Spec.weight a + Spec.weight b) % 2 := by
  have hlist : ∀ l : List Nat, (l.filter (a ^^^ b).getLsbD).length % 2 =
      ((l.filter a.getLsbD).length + (l.filter b.getLsbD).length) % 2 := by
    intro l
    induction l with
    | nil => rfl
    | cons k l ih =>
      simp only [List.filter_cons, BitVec.getLsbD_xor]
      cases a.getLsbD k <;> cases b.getLsbD k <;> simp <;> omega
  exact hlist (List.range 24)

/-- P has an even number of terms, so the division keeps the parity of a pattern. -/
theorem weight_syndrome (e : BitVec 24) :
    Spec.weight ((syndrome e).setWidth 24) % 2 = Spec.weight e % 2 := by
  refine xor_induction
    (P := fun e => Spec.weight ((syndrome e).setWidth 24) % 2 = Spec.weight e % 2)
    (by decide +kernel) (fun a b ha hb => ?_) (by decide +kernel) e
  rw [syndrome_xor, BitVec.setWidth_xor, weight_xor, weight_xor]
  omega

/-- Settles O7: a pattern that goes undetected has syndrome 0, and so even weight (R76). -/
theorem oddErrorsAreDetected : Obligations.OddErrorsAreDetected := by
  intro f e hf hodd hpass
  have hparity := weight_syndrome e
  rw [(passes_xor_iff hf e).1 hpass, hodd] at hparity
  exact absurd hparity (by decide)

/-- Two single bits have one syndrome exactly when they are 15 positions apart: x has order 15
modulo P. -/
theorem syndrome_single_bit_eq_iff : ∀ k, k < 24 → ∀ j, j < k →
    (syndrome ((1 : BitVec 24) <<< j) = syndrome ((1 : BitVec 24) <<< k) ↔ k = j + 15) := by
  decide +kernel

/-- Settles O8: two flipped bits go undetected exactly when their syndromes cancel (R76). -/
theorem twoBitErrorsPassOnlyAtDistance15 : Obligations.TwoBitErrorsPassOnlyAtDistance15 := by
  intro f hf j k hjk hk
  rw [BitVec.xor_assoc, passes_xor_iff hf, syndrome_xor]
  exact BitVec.xor_eq_zero_iff.trans (syndrome_single_bit_eq_iff k hk j hjk)

end Sys2Proof.Machine

/-! What the primitive commands and INIT do with particular answers (95_test_vectors.md S2,
41_transaction.md section 2, 70_reset_and_hazards.md section 3), all by way of `Transact` (R81). -/

namespace Sys2Proof.Machine

/-! ### A frame that comes back as it was sent (R75) -/

theorem frame_getLsbD (b0 b1 b2 : Byte) (i : Nat) :
    (b0 ++ b1 ++ b2).getLsbD i = if i < 8 then b2.getLsbD i else (b0 ++ b1).getLsbD (i - 8) :=
  BitVec.getLsbD_append

/-- A checksum in the third byte is outside the payload. -/
theorem payload_of_checksum (b0 b1 : Byte) (c : BitVec 5) :
    BitVec.extractLsb' 5 19 (b0 ++ b1 ++ c.setWidth 8) =
      BitVec.extractLsb' 5 19 (b0 ++ b1 ++ (0x00 : Byte)) := by
  refine BitVec.eq_of_getLsbD_eq fun i _ => ?_
  simp only [BitVec.getLsbD_extractLsb', frame_getLsbD]
  simp

/-- The verifier accepts a frame whose third byte is the checksum of its first two (R75, R88). -/
theorem crc5_of_own_checksum (b0 b1 : Byte) :
    crc5 (b0 ++ b1 ++ (crc5 (b0 ++ b1 ++ (0x00 : Byte))).setWidth 8) =
      ((crc5 (b0 ++ b1 ++ (0x00 : Byte))).setWidth 8).extractLsb' 0 5 := by
  have hlow : ∀ c : BitVec 5, (c.setWidth 8).extractLsb' 0 5 = c := by decide
  rw [hlow]
  exact crc5_congr (payload_of_checksum b0 b1 _)

/-- Settles O9: the transaction finds its own checksum behind its own bytes, and three calls that
return ok record nothing (R75, R88). -/
theorem echoedFrameRaisesNoError : Obligations.EchoedFrameRaisesNoError := by
  intro s a d q hs h hok1 hok2 hok3 hrx
  refine ⟨_, exec_wrreg_replies a d hs h, ?_, ?_, ?_⟩
  · have hvalid := crc5_of_own_checksum (a ||| 0x80) d
    cases hc : s.crcEn
    · simp [Spec.transact, hc, hok1, hok2, hok3]
    · simp only [Spec.transact, dropAnswers_err, hc, hok1, hok2, hok3, hrx, if_true, hvalid]
      simp
  · cases hc : s.crcEn <;> simp [Spec.transact, hc, hrx]
  · cases hc : s.crcEn <;> simp [Spec.transact, hc, hrx]

/-! ### The result flags (R88) -/

/-- Outside COMM a transaction depends on the bytes of the exchange alone. -/
theorem transact_of_rx {q q' : TxnReplies} (h : q.exchange.rx = q'.exchange.rx) (x : Txn)
    (s : State) :
    Spec.transact x q s = { Spec.transact x q' s with err := (Spec.transact x q s).err } := by
  simp only [Spec.transact, h]

/-- COMM's mask leaves the reading of INTEG, in either bit assignment. -/
theorem transact_integ_of_rx {q q' : TxnReplies} (h : q.exchange.rx = q'.exchange.rx) (x : Txn)
    (s : State) :
    ErrKind.isSet s.params .integ (Spec.transact x q s).err =
      ErrKind.isSet s.params .integ (Spec.transact x q' s).err := by
  have hcomm : ∀ ok : Bool,
      ErrKind.isSet s.params .integ (if ok then 0b00 else ErrKind.mask s.params .comm) = false :=
    fun ok => by
      cases ok
      · exact ErrKind.isSet_mask s.params .comm .integ
      · exact ErrKind.isSet_zero s.params .integ
  simp only [Spec.transact, ErrKind.isSet_or, hcomm, h]

/-- RDREG and WRREG are one `Transact`, and the response depends on received byte 1 alone (R90,
R91). -/
theorem exec_primitive_replies {i : Instr} (hi : (∃ a, i = .rdreg a) ∨ ∃ a d, i = .wrreg a d) :
    ∃ (x : Txn) (r : Byte → Response), ∀ (s : State) (q : TxnReplies), s.ready = true →
      s.willReply (repliesOf [q]) →
      exec i s = .next ({ Spec.transact x q s with
        response := r q.exchange.rx.b1 }.dropAnswers 3) := by
  obtain ⟨a, rfl⟩ | ⟨a, d, rfl⟩ := hi
  · exact ⟨_, .byte, fun _ _ hs h => exec_rdreg_replies a hs h⟩
  · exact ⟨_, fun _ => .none, fun _ _ hs h => exec_wrreg_replies a d hs h⟩

/-- A transport whose settled answers are the replies `rs` gives them. -/
theorem willReply_of_answers (s : State) (rs : List Reply) :
    ({ s with answers := rs.map .reply } : State).willReply rs := by
  refine List.ext_getElem (by simp) fun k hk hk' => ?_
  have hlt : k < rs.length := by simpa using hk
  simp [State.answerAt, hlt]

/-- A command that gives a next state was presented to an idle block. -/
theorem ready_of_exec {i : Instr} {s t : State} (hi : Spec.isCommand i = true)
    (h : exec i s = .next t) : s.ready = true := by
  obtain ⟨w, rfl, _⟩ | ⟨hr, _⟩ := exec_cases h
  · cases hi
  · exact hr

/-- Settles O17: both runs are one `Transact` on the same bytes, which differ in COMM at most
(R88, R89). -/
theorem resultFlagsReachOnlyComm : Obligations.ResultFlagsReachOnlyComm := by
  intro s i q q' t t' hi hrx ht ht'
  have hcmd : Spec.isCommand i = true := by obtain ⟨a, rfl⟩ | ⟨a, d, rfl⟩ := hi <;> rfl
  have hs := ready_of_exec hcmd ht
  obtain ⟨x, r, hexec⟩ := exec_primitive_replies hi
  cases ht.symm.trans (hexec _ q hs (willReply_of_answers s _))
  cases ht'.symm.trans (hexec _ q' hs (willReply_of_answers s _))
  have hsame := transact_of_rx hrx x s
  exact ⟨transact_integ_of_rx hrx x s, (congrArg State.di hsame :), (congrArg State.wb hsame :),
    congrArg (fun f : Frame => r f.b1) hrx, (congrArg State.calls hsame :)⟩

/-! ### INIT on a configured chip (R150) -/

/-- Settles O23: at polarity 1 a clear flag makes the write list empty, so INIT is its two reads,
and a read leaves WB. -/
theorem initLeavesAConfiguredChipAlone : Obligations.InitLeavesAConfiguredChipAlone := by
  intro s q0 qe hs hpol hflag h
  have hnone : Spec.initWrites s.params q0.exchange.rx.b1 = [] := by
    simp [Spec.initWrites, hpol, hflag]
  have hinit := initConfiguresAndReadsBack.2 s q0 qe [] hs (by rw [hnone]; rfl) h
  rw [hnone] at hinit
  let u := Spec.transact ⟨.rd, s.params.addrStatus, 0x00⟩ q0 { s with err := 0b00 }
  obtain ⟨tx, hcalls⟩ := transact_calls ⟨.rd, s.params.addrStatus, 0x00⟩ q0 { s with err := 0b00 }
  obtain ⟨tx', hcalls'⟩ := transact_calls ⟨.rd, s.params.addrFaultEn, 0x00⟩ qe u
  have hwhole : ∀ a : Byte, byte0 ⟨.rd, a, 0x00⟩ = a := fun _ => BitVec.or_zero
  rw [hwhole] at hcalls hcalls'
  refine ⟨_, tx, tx', hinit, hs, rfl, hcalls'.trans ?_⟩
  rw [hcalls, List.append_assoc]
  rfl

end Sys2Proof.Machine

/-! INTEG, by its name in either bit assignment (R6's last row, R13, R88, R121): recording one kind
leaves the reading of the other, and in unchecked mode nothing records INTEG. -/

namespace Sys2Proof.Machine

/-! ### The two kinds of error -/

/-- Recording a kind sets that kind where the cause holds and leaves the other (R124). -/
theorem isSet_recordError (k k' : ErrKind) (c : Bool) (s : State) :
    ErrKind.isSet s.params k' (recordError k c s).err =
      (ErrKind.isSet s.params k' s.err || (decide (k = k') && c)) := by
  cases c <;> simp [ErrKind.isSet_mask]

/-- Settles O43: the two masks are the bit the parameter names and the other one, and a mask is
read back under its own name only (R6, R13, R120). -/
theorem errorKindsHaveTheAssignedBits : Obligations.ErrorKindsHaveTheAssignedBits := by
  refine ⟨fun p hp => ?_, fun p hp => ?_, isSet_recordError⟩
  · simp only [ErrKind.mask, ErrKind.position, hp]
    decide
  · simp only [ErrKind.mask, ErrKind.position, hp]
    decide

/-! ### Unchecked mode -/

/-- The reading of INTEG, in the bit assignment of the block's parameters. -/
def State.integSet (s : State) : Bool := ErrKind.isSet s.params .integ s.err

theorem integSet_congr {s t : State} (hp : t.params = s.params) (he : t.err = s.err) :
    t.integSet = s.integSet := by
  rw [State.integSet, State.integSet, hp, he]

/-- Recording COMM leaves INTEG. -/
theorem integSet_recordError_comm (c : Bool) (s : State) :
    (recordError .comm c s).integSet = s.integSet :=
  (isSet_recordError .comm .integ c s).trans (by simp [State.integSet])

theorem integSet_buildPhase (s : State) : (buildPhase s).integSet = s.integSet := by
  obtain h | ⟨_, _, _, h⟩ := buildPhase_cases s <;> rw [h]
  exact integSet_congr rfl rfl

theorem integSet_acquirePhase (s : State) : (acquirePhase s).integSet = s.integSet := by
  obtain h | ⟨_, _, h⟩ | ⟨r, _, _, h⟩ := acquirePhase_cases s <;> rw [h]
  · exact integSet_congr rfl rfl
  · exact integSet_recordError_comm (!r.ok) s

theorem integSet_exchangePhase (s : State) : (exchangePhase s).integSet = s.integSet := by
  obtain h | ⟨_, _, h⟩ | ⟨r, _, _, h⟩ := exchangePhase_cases s <;> rw [h]
  · exact integSet_congr rfl rfl
  · exact integSet_recordError_comm (!r.ok) s

theorem integSet_releasePhase (s : State) : (releasePhase s).integSet = s.integSet := by
  obtain h | ⟨_, _, h⟩ | ⟨r, _, _, h⟩ := releasePhase_cases s <;> rw [h]
  · exact integSet_congr rfl rfl
  · exact integSet_recordError_comm (!r.ok) s

/-- In unchecked mode VERIFY compares nothing (R88). -/
theorem integSet_verifyPhase {s : State} (hc : s.crcEn = false) :
    (verifyPhase s).integSet = s.integSet := by
  obtain h | ⟨_, h⟩ := verifyPhase_cases s <;> rw [h]
  exact integSet_congr rfl (by simp [hc])

theorem integSet_advance (p : Progress) (s : State) : (advance p s).integSet = s.integSet := by
  obtain ⟨_, h, _⟩ | ⟨b, _, h⟩ := advance_cases p s <;> rw [h]
  · exact integSet_congr rfl rfl
  · exact integSet_recordError_comm b s

theorem integSet_updatePhase (s : State) : (updatePhase s).integSet = s.integSet := by
  obtain h | ⟨p, _, _, h⟩ := updatePhase_cases s <;> rw [h]
  exact (integSet_advance p _).trans (integSet_congr rfl rfl)

theorem integSet_runTxn {s : State} (hc : s.crcEn = false) : (runTxn s).integSet = s.integSet := by
  have hverify : (releasePhase (exchangePhase (acquirePhase (buildPhase s)))).crcEn = false := by
    simp [hc]
  rw [runTxn, integSet_updatePhase, integSet_verifyPhase hverify, integSet_releasePhase,
    integSet_exchangePhase, integSet_acquirePhase, integSet_buildPhase]

theorem integSet_runBlock {s : State} (hc : s.crcEn = false) :
    (runBlock s).integSet = s.integSet :=
  (runBlock_keeps (P := fun t => t.crcEn = false ∧ t.integSet = s.integSet)
    (fun t ⟨hct, ht⟩ => ⟨(runTxn_crcEn t).trans hct, (integSet_runTxn hct).trans ht⟩)
    s ⟨hc, rfl⟩).2

/-- In unchecked mode an instruction sets INTEG never, and a logical operation clears it. -/
theorem integSet_exec {i : Instr} {s t : State} (hc : s.crcEn = false) (h : exec i s = .next t)
    (ht : t.integSet = true) : s.integSet = true := by
  obtain ⟨w, _, rfl⟩ | ⟨_, p, c, _, rfl⟩ := exec_cases h
  · exact ht
  · rw [integSet_runBlock (by cases c <;> exact hc)] at ht
    cases c with
    | false => exact ht
    | true => exact absurd ht (by simp [State.integSet, ← BitVec.ofNat_eq_ofNat])

/-- Settles O32: only VERIFY records INTEG, and in unchecked mode it records nothing (R88, R121). -/
theorem uncheckedModeNeverSetsInteg : Obligations.UncheckedModeNeverSetsInteg := by
  have hread : ∀ {s t : State}, t.params = s.params →
      ErrKind.isSet s.params .integ t.err = t.integSet := fun hp => by rw [← hp]; rfl
  refine ⟨fun i s t hc h hset => ?_, fun s t hc h hset => ?_⟩
  · rw [hread (exec_keeps_mode h).2] at hset
    exact integSet_exec hc h hset
  · rw [hread (step_keeps_mode h).2] at hset
    obtain ⟨_, _, rfl⟩ | ⟨_, r, rest, i, _, _, hi⟩ | ⟨_, rfl⟩ := step_cases h
    · exact hset
    · exact integSet_exec (s := { s with requests := rest }) hc hi hset
    · exact (integSet_runBlock hc).symm.trans hset

end Sys2Proof.Machine

/-! Which instructions run, and that they complete (R80, R92, R103, R124).  An idle block runs every
command that begins; a run whose calls all return goes from one transaction to the next until none is
left. -/

namespace Sys2Proof.Machine

/-! ### Refusals -/

/-- Settles O25: a busy block refuses by the same name whatever the command is (R80, D11). -/
theorem busyBlockRefusesCommands : Obligations.BusyBlockRefusesCommands :=
  fun _ _ hi hr => exec_command_busy hi hr

/-- An idle block runs a command from where it begins. -/
theorem exec_of_begins {i : Instr} {p : Progress} {c : Bool} {s : State} (hs : s.ready = true)
    (h : begins i p c) :
    exec i s = .next (runBlock (goTo p (if c then clearErrors s else s))) := by
  cases i with
  | crc5 w => exact h.elim
  | rdreg a => obtain ⟨rfl, rfl⟩ := h; exact accept_ready hs _ _
  | wrreg a d => obtain ⟨rfl, rfl⟩ := h; exact accept_ready hs _ _
  | init => obtain ⟨rfl, rfl⟩ := h; exact accept_ready hs _ _
  | refresh => obtain ⟨rfl, rfl⟩ := h; exact accept_ready hs _ _
  | setfilt m v =>
    obtain ⟨⟨j, hnext, rfl⟩, rfl⟩ := h
    simp only [exec, execSetfilt, hs, hnext, if_true]
    exact accept_ready hs _ _
  | getflt => obtain ⟨rfl, rfl⟩ := h; exact accept_ready hs _ _

/-- Every command but SETFILT with an empty mask begins somewhere, with no more transactions left
than the command can make. -/
theorem exists_begins {i : Instr} (ps : Params) (hi : Spec.isCommand i = true)
    (hmask : ¬ ∃ v, i = .setfilt 0x00 v) :
    ∃ p c, begins i p c ∧ p.txnsLeft ps ≤ Spec.maxTxns ps i := by
  cases i with
  | crc5 w => cases hi
  | rdreg a => exact ⟨_, _, ⟨rfl, rfl⟩, Nat.le_refl _⟩
  | wrreg a d => exact ⟨_, _, ⟨rfl, rfl⟩, Nat.le_refl _⟩
  | init => exact ⟨_, _, ⟨rfl, rfl⟩, Nat.le_refl _⟩
  | refresh => exact ⟨_, _, ⟨rfl, rfl⟩, Nat.le_refl _⟩
  | setfilt m v =>
    have hm : nextChannel m 0 ≠ none := fun hnone => by
      obtain rfl := (nextChannel_zero_eq_none_iff m).1 hnone
      exact hmask ⟨v, rfl⟩
    obtain ⟨j, hnext⟩ := Option.ne_none_iff_exists'.1 hm
    exact ⟨_, _, ⟨⟨j, hnext, rfl⟩, rfl⟩, Nat.sub_le 8 j.val⟩
  | getflt => exact ⟨_, _, ⟨rfl, rfl⟩, Nat.le_refl _⟩

/-- SETFILT with an empty mask begins nowhere. -/
theorem not_begins_setfilt_empty {v : Byte} {p : Progress} {c : Bool} :
    ¬ begins (.setfilt 0x00 v) p c := by
  rintro ⟨⟨j, hnext, _⟩, _⟩
  rw [(nextChannel_zero_eq_none_iff 0x00).2 rfl] at hnext
  cases hnext

/-- Settles O26: a command gives a next state exactly where it begins on an idle block, and CRC5
always does (R58, R80, R103). -/
theorem onlyBusyAndEmptyMaskAreRefused : Obligations.OnlyBusyAndEmptyMaskAreRefused := by
  intro i s
  constructor
  · rintro ⟨t, h⟩
    obtain ⟨w, rfl, _⟩ | ⟨hr, p, c, hbegins, _⟩ := exec_cases h
    · simp [Spec.isCommand]
    · refine ⟨fun ⟨_, hbusy⟩ => ?_, ?_⟩
      · rw [hr] at hbusy
        cases hbusy
      · rintro ⟨v, rfl⟩
        exact not_begins_setfilt_empty hbegins
  · rintro ⟨hidle, hmask⟩
    by_cases hi : Spec.isCommand i = true
    · have hr : s.ready = true := by simpa [hi] using hidle
      obtain ⟨p, c, hbegins, _⟩ := exists_begins s.params hi hmask
      exact ⟨_, exec_of_begins hr hbegins⟩
    · cases i with
      | crc5 w => exact ⟨_, exec_crc5 w s⟩
      | _ => exact absurd rfl hi

/-! ### Completion -/

/-- An answer that is not silent is a reply. -/
theorem exists_reply {a : Answer} (h : a ≠ .silent) : ∃ r, a = .reply r := by
  cases a with
  | silent => exact absurd rfl h
  | reply r => exact ⟨r, rfl⟩

theorem transacted_params (p : Progress) (r1 r2 r3 : Reply) (s : State) :
    (transacted p r1 r2 r3 s).params = s.params := rfl

/-- A transaction whose three calls return ends in what the command does next, on a port three
answers on and with the parameters as they were. -/
theorem runTxn_answered {s : State} {p : Progress} (hph : s.phase = .build) (hop : s.op = some p)
    (h : ∀ k, k < 3 → s.answerAt k ≠ .silent) :
    ∃ u : State, runTxn s = advance p u ∧ u.params = s.params ∧
      ∀ k, u.answerAt k = s.answerAt (3 + k) := by
  obtain ⟨r1, h1⟩ := exists_reply (h 0 (by omega))
  obtain ⟨r2, h2⟩ := exists_reply (h 1 (by omega))
  obtain ⟨r3, h3⟩ := exists_reply (h 2 (by omega))
  refine ⟨_, runTxn_replies hph hop h1 h2 h3, ?_, fun k => ?_⟩
  · simp only [snapshot_params, dropAnswers_params, transacted_params]
  · rw [← transacted_answerAt p r1 r2 r3 s, ← dropAnswers_answerAt]
    exact answerAt_congr rfl rfl k

/-- A run none of whose calls goes unanswered completes its command. -/
theorem runBlock_ready_of_answered (n : Nat) (p : Progress) {s : State}
    (hn : p.txnsLeft s.params ≤ n) (h : ∀ k, k < 3 * n → s.answerAt k ≠ .silent) :
    (runBlock (goTo p s)).ready = true := by
  induction n generalizing p s with
  | zero => exact absurd (txnsLeft_pos p s.params) (by omega)
  | succ n ih =>
    have hport : ∀ k, (goTo p s).answerAt k = s.answerAt k := answerAt_congr rfl rfl
    have hnow : ∀ k, k < 3 → (goTo p s).answerAt k ≠ .silent := fun k hk => by
      rw [hport]
      exact h k (by omega)
    obtain ⟨u, hu, hparams, hanswers⟩ := runTxn_answered (goTo_phase s p) (goTo_op s p) hnow
    rw [goTo_params] at hparams
    have hdone : (runTxn (goTo p s)).phase.awaits = false := by
      rw [hu]
      exact advance_phase_not_awaits p u
    rw [runBlock_runTxn (goTo_op s p) (by simp) hdone, hu]
    obtain ⟨q, hnext, hless⟩ | ⟨b, r, hnext⟩ := advance_cases p u
    · rw [hnext]
      rw [hparams] at hless
      refine ih q (by rw [hparams]; omega) fun k hk => ?_
      rw [hanswers, hport]
      exact h (3 + k) (by omega)
    · rw [hnext, runBlock_complete]
      rfl

/-- Settles O29: a command begins with no more transactions left than its bound, and each takes
three answers (R41, R92). -/
theorem answeredCommandsComplete : Obligations.AnsweredCommandsComplete := by
  intro i s hs hwf hanswers
  by_cases hi : Spec.isCommand i = true
  · have hmask : ¬ ∃ v, i = .setfilt 0x00 v := by
      rintro ⟨v, rfl⟩
      cases hwf
    obtain ⟨p, c, hbegins, hleft⟩ := exists_begins s.params hi hmask
    refine ⟨_, exec_of_begins hs hbegins,
      runBlock_ready_of_answered (Spec.maxTxns s.params i) p ?_ ?_⟩
    · cases c <;> exact hleft
    · cases c <;> exact hanswers
  · cases i with
    | crc5 w => exact ⟨_, exec_crc5 w s, hs⟩
    | _ => exact absurd rfl hi

end Sys2Proof.Machine

/-! A stall only delays a command (R44, R92).  Two runs are compared: one whose settled answers hold a
silent one, and one without it.  They go side by side up to the call that takes the silent answer;
there the stalled block is in the very state of the other one, which has that call still to make
answered. -/

namespace Sys2Proof.Machine

/-- `s` with the settled answers `l`. -/
def State.withAnswers (s : State) (l : List Answer) : State := { s with answers := l }

/-- `s'` is `s` without the first silent answer of its port, `post` being what follows that one. -/
def delays (post : List Answer) (s s' : State) : Prop :=
  ∃ pre, .silent ∉ pre ∧ s.answers = pre ++ .silent :: post ∧ s' = s.withAnswers (pre ++ post)

theorem delays.op_eq {post : List Answer} {s s' : State} (h : delays post s s') : s'.op = s.op := by
  obtain ⟨_, _, _, rfl⟩ := h
  rfl

theorem delays.params_eq {post : List Answer} {s s' : State} (h : delays post s s') :
    s'.params = s.params := by
  obtain ⟨_, _, _, rfl⟩ := h
  rfl

theorem delays.phase_eq {post : List Answer} {s s' : State} (h : delays post s s') :
    s'.phase = s.phase := by
  obtain ⟨_, _, _, rfl⟩ := h
  rfl

/-! ### What does not look at the port -/

/-- `f` neither reads nor writes the settled answers. -/
def ignoresAnswers (f : State → State) : Prop :=
  ∀ s l, f (s.withAnswers l) = (f s).withAnswers l

theorem ignoresAnswers.answers_eq {f : State → State} (hf : ignoresAnswers f) (s : State) :
    (f s).answers = s.answers := by
  have h : f s = (f s).withAnswers s.answers := hf s s.answers
  rw [h]
  rfl

/-- An operation that does not look at the port keeps two runs side by side. -/
theorem delays.map {post : List Answer} {s s' : State} (h : delays post s s') {f : State → State}
    (hf : ignoresAnswers f) : delays post (f s) (f s') := by
  obtain ⟨pre, hpre, hs, rfl⟩ := h
  exact ⟨pre, hpre, (hf.answers_eq s).trans hs, hf s _⟩

theorem ignoresAnswers_acquired (r : Reply) : ignoresAnswers (acquired r) := fun _ _ => rfl

theorem ignoresAnswers_received (r : Reply) : ignoresAnswers (received r) := fun _ _ => rfl

theorem ignoresAnswers_released (r : Reply) : ignoresAnswers (released r) := fun _ _ => rfl

theorem ignoresAnswers_buildPhase : ignoresAnswers buildPhase := by
  intro s l
  simp only [buildPhase, State.withAnswers]
  split <;> rfl

theorem ignoresAnswers_verifyPhase : ignoresAnswers verifyPhase := by
  intro s l
  simp only [verifyPhase, State.withAnswers]
  split <;> rfl

/-- How a command goes on does not depend on the answers to come. -/
theorem ignoresAnswers_advance (p : Progress) : ignoresAnswers (advance p) := by
  intro s l
  have hinit : ∀ st ws, initNext st ws (s.withAnswers l) = (initNext st ws s).withAnswers l :=
    fun st ws => by cases ws <;> rfl
  cases p with
  | initStatus => exact hinit _ _
  | initWrite st a v rest => exact hinit st rest
  | setfilt m v i =>
    simp only [advance, setfiltNext]
    cases nextChannel m (i.val + 1) <;> rfl
  | rdreg a => rfl
  | wrreg a d => rfl
  | initReadback st => rfl
  | refresh => rfl
  | getfltHi => rfl
  | getfltLo hi => rfl

theorem ignoresAnswers_updatePhase : ignoresAnswers updatePhase := by
  intro s l
  simp only [updatePhase, State.withAnswers]
  split
  · exact ignoresAnswers_advance _ (snapshot _ s) l
  · rfl

/-! ### One call, with and without the silent answer -/

/-- A call that takes the silent answer leaves the stalled block in the state of the other one; a
call that takes an earlier answer returns in both runs with the same reply. -/
theorem awaitReply_delays {post : List Answer} {s s' : State} (h : delays post s s')
    {k : Reply → State → State} (hk : ∀ r, ignoresAnswers (k r)) :
    awaitReply k s = s' ∨
      (∃ r t, awaitReply k s = k r t) ∧ delays post (awaitReply k s) (awaitReply k s') := by
  obtain ⟨pre, hpre, hs, rfl⟩ := h
  cases pre with
  | nil =>
    left
    have hsilent : s.answerAt 0 = .silent := by simp [State.answerAt, hs]
    rw [awaitReply_silent hsilent]
    simp [State.dropAnswers, State.withAnswers, hs]
  | cons a pre =>
    right
    obtain ⟨r, rfl⟩ := exists_reply (a := a) (fun ha => hpre (by simp [ha]))
    have hr : s.answerAt 0 = .reply r := by simp [State.answerAt, hs]
    have hr' : (s.withAnswers (.reply r :: pre ++ post)).answerAt 0 = .reply r := by
      simp [State.answerAt, State.withAnswers]
    have hdropped : delays post (s.dropAnswers 1)
        ((s.withAnswers (.reply r :: pre ++ post)).dropAnswers 1) :=
      ⟨pre, fun hmem => hpre (.tail _ hmem), by simp [hs],
        by simp [State.dropAnswers, State.withAnswers, hs]⟩
    rw [awaitReply_reply hr, awaitReply_reply hr']
    exact ⟨⟨r, _, rfl⟩, hdropped.map (hk r)⟩

/-- A phase `f` that is one call in `ph`, going on with `k` in `next`: it stalls in the state of the
other run, or it is passed side by side. -/
theorem callPhase_delays {f : State → State} {k : Reply → State → State} {ph next : Phase}
    (hcall : ∀ s, s.phase = ph → f s = awaitReply k s) (hskip : ∀ s, s.phase ≠ ph → f s = s)
    (hk : ∀ r, ignoresAnswers (k r)) (hnext : ∀ r t, (k r t).phase = next)
    {post : List Answer} {s s' : State} (h : delays post s s') :
    (f s = s' ∧ s'.phase = ph) ∨
      delays post (f s) (f s') ∧ (f s).phase = if s.phase = ph then next else s.phase := by
  have hsame := h.phase_eq
  by_cases hph : s.phase = ph
  · rw [if_pos hph, hcall s hph, hcall s' (hsame.trans hph)]
    obtain hstall | ⟨⟨r, t, hreply⟩, hside⟩ := awaitReply_delays h hk
    · exact .inl ⟨hstall, hsame.trans hph⟩
    · exact .inr ⟨hside, by rw [hreply, hnext]⟩
  · rw [if_neg hph, hskip s hph, hskip s' (by rwa [hsame])]
    exact .inr ⟨h, rfl⟩

theorem acquirePhase_skip {s : State} (h : s.phase ≠ .acquire) : acquirePhase s = s := by
  obtain hs | ⟨hph, _⟩ | ⟨_, hph, _⟩ := acquirePhase_cases s
  · exact hs
  · exact absurd hph h
  · exact absurd hph h

theorem exchangePhase_skip {s : State} (h : s.phase ≠ .exchange) : exchangePhase s = s := by
  obtain hs | ⟨hph, _⟩ | ⟨_, hph, _⟩ := exchangePhase_cases s
  · exact hs
  · exact absurd hph h
  · exact absurd hph h

theorem releasePhase_skip {s : State} (h : s.phase ≠ .release) : releasePhase s = s := by
  obtain hs | ⟨hph, _⟩ | ⟨_, hph, _⟩ := releasePhase_cases s
  · exact hs
  · exact absurd hph h
  · exact absurd hph h

theorem acquirePhase_delays {post : List Answer} {s s' : State} (h : delays post s s') :
    (acquirePhase s = s' ∧ s'.phase = .acquire) ∨
      delays post (acquirePhase s) (acquirePhase s') ∧
        (acquirePhase s).phase = if s.phase = .acquire then .exchange else s.phase :=
  callPhase_delays (k := acquired) (fun _ hph => by simp only [acquirePhase, hph])
    (fun _ => acquirePhase_skip) ignoresAnswers_acquired (fun _ _ => rfl) h

theorem exchangePhase_delays {post : List Answer} {s s' : State} (h : delays post s s') :
    (exchangePhase s = s' ∧ s'.phase = .exchange) ∨
      delays post (exchangePhase s) (exchangePhase s') ∧
        (exchangePhase s).phase = if s.phase = .exchange then .release else s.phase :=
  callPhase_delays (k := received) (fun _ hph => by simp only [exchangePhase, hph])
    (fun _ => exchangePhase_skip) ignoresAnswers_received (fun _ _ => rfl) h

theorem releasePhase_delays {post : List Answer} {s s' : State} (h : delays post s s') :
    (releasePhase s = s' ∧ s'.phase = .release) ∨
      delays post (releasePhase s) (releasePhase s') ∧
        (releasePhase s).phase = if s.phase = .release then .verify else s.phase :=
  callPhase_delays (k := released) (fun _ hph => by simp only [releasePhase, hph])
    (fun _ => releasePhase_skip) ignoresAnswers_released (fun _ _ => rfl) h

/-! ### One transaction, with and without the silent answer -/

theorem buildPhase_skip {s : State} (h : s.phase ≠ .build) : buildPhase s = s :=
  (buildPhase_cases s).resolve_right fun ⟨_, hph, _⟩ => h hph

theorem verifyPhase_skip {s : State} (h : s.phase ≠ .verify) : verifyPhase s = s :=
  (verifyPhase_cases s).resolve_right fun ⟨hph, _⟩ => h hph

theorem updatePhase_skip {s : State} (h : s.phase ≠ .update) : updatePhase s = s :=
  (updatePhase_cases s).resolve_right fun ⟨_, hph, _⟩ => h hph

/-- After the release phase of a transaction that did not stall no call is left to wait for. -/
theorem update_verify_not_awaits {s : State} (h : s.phase.awaits = false) :
    (updatePhase (verifyPhase s)).phase.awaits = false := by
  have hverify : (verifyPhase s).phase.awaits = false := by
    obtain hv | ⟨_, hv⟩ := verifyPhase_cases s <;> rw [hv]
    · exact h
    · rfl
  obtain hu | ⟨p, _, _, hu⟩ := updatePhase_cases (verifyPhase s) <;> rw [hu]
  · exact hverify
  · exact advance_phase_not_awaits p _

/-- Two transactions side by side: one stalls at the silent answer, and from there goes on as the
other; or both pass. -/
theorem runTxn_delays {post : List Answer} {s s' : State} (h : delays post s s') :
    ((runTxn s).phase.awaits = true ∧ runTxn (runTxn s) = runTxn s') ∨
      delays post (runTxn s) (runTxn s') ∧ (runTxn s).phase.awaits = false := by
  have hbuilt := h.map ignoresAnswers_buildPhase
  obtain ⟨hstall, hph⟩ | ⟨hacquired, hacquire⟩ := acquirePhase_delays hbuilt
  · have hend : runTxn s = buildPhase s' := by
      rw [runTxn, hstall, exchangePhase_skip (by simp [hph]), releasePhase_skip (by simp [hph]),
        verifyPhase_skip (by simp [hph]), updatePhase_skip (by simp [hph])]
    have hresume : runTxn (buildPhase s') = runTxn s' := by
      rw [runTxn, buildPhase_skip (by simp [hph]), ← runTxn]
    exact .inl ⟨by rw [hend, hph]; rfl, by rw [hend, hresume]⟩
  obtain ⟨hstall, hph⟩ | ⟨hexchanged, hexchange⟩ := exchangePhase_delays hacquired
  · have hend : runTxn s = acquirePhase (buildPhase s') := by
      rw [runTxn, hstall, releasePhase_skip (by simp [hph]), verifyPhase_skip (by simp [hph]),
        updatePhase_skip (by simp [hph])]
    have hresume : runTxn (acquirePhase (buildPhase s')) = runTxn s' := by
      rw [runTxn, buildPhase_skip (by simp [hph]), acquirePhase_skip (by simp [hph]), ← runTxn]
    exact .inl ⟨by rw [hend, hph]; rfl, by rw [hend, hresume]⟩
  obtain ⟨hstall, hph⟩ | ⟨hreleased, hrelease⟩ := releasePhase_delays hexchanged
  · have hend : runTxn s = exchangePhase (acquirePhase (buildPhase s')) := by
      rw [runTxn, hstall, verifyPhase_skip (by simp [hph]), updatePhase_skip (by simp [hph])]
    have hresume : runTxn (exchangePhase (acquirePhase (buildPhase s'))) = runTxn s' := by
      rw [runTxn, buildPhase_skip (by simp [hph]), acquirePhase_skip (by simp [hph]),
        exchangePhase_skip (by simp [hph]), ← runTxn]
    exact .inl ⟨by rw [hend, hph]; rfl, by rw [hend, hresume]⟩
  have hpassed : (releasePhase (exchangePhase (acquirePhase (buildPhase s)))).phase.awaits =
      false := by
    rw [hrelease, hexchange, hacquire]
    cases (buildPhase s).phase <;> rfl
  exact .inr ⟨(hreleased.map ignoresAnswers_verifyPhase).map ignoresAnswers_updatePhase,
    update_verify_not_awaits hpassed⟩

/-! ### The run of a command, with and without the silent answer -/

/-- The block's run is what its first transaction makes of it. -/
theorem runBlock_congr {s s' : State} {p : Progress} (hop : s.op = some p) (hop' : s'.op = some p)
    (hparams : s'.params = s.params) (h : runTxn s = runTxn s') : runBlock s = runBlock s' := by
  obtain ⟨n, hn⟩ := Nat.exists_eq_succ_of_ne_zero (txnsLeft_pos p s.params).ne'
  simp only [runBlock, hop, hop', hparams, hn, runTxns, h]

/-- A transaction that stalls ends the block's run. -/
theorem runBlock_of_awaits {s : State} {p : Progress} (hop : s.op = some p)
    (hwait : (runTxn s).phase.awaits = true) : runBlock s = runTxn s := by
  obtain ⟨n, hn⟩ := Nat.exists_eq_succ_of_ne_zero (txnsLeft_pos p s.params).ne'
  simp only [runBlock, hop, hn, runTxns]
  split
  · rename_i hbuild
    rw [hbuild] at hwait
    cases hwait
  · rfl

/-- A run that stalls at the silent answer is, run on, the run without that answer. -/
theorem runBlock_delays {post : List Answer} (n : Nat) {s s' : State} {p : Progress}
    (hn : p.txnsLeft s.params ≤ n) (hop : s.op = some p) (hph : s.phase ≠ .idle)
    (h : delays post s s') (hstall : (runBlock s).ready = false) :
    runBlock (runBlock s) = runBlock s' := by
  induction n generalizing s s' p with
  | zero => exact absurd (txnsLeft_pos p s.params) (by omega)
  | succ n ih =>
    have hop' : s'.op = some p := h.op_eq.trans hop
    obtain ⟨hwait, hresume⟩ | ⟨hnext, hpass⟩ := runTxn_delays h
    · have hsame : (runTxn s).op = some p := by
        obtain ⟨_, hkeep⟩ | ⟨_, hbuild, _⟩ | ⟨hidle, _⟩ := runTxn_cases hop hph
        · exact hkeep
        · rw [hbuild] at hwait
          cases hwait
        · rw [hidle] at hwait
          cases hwait
      rw [runBlock_of_awaits hop hwait]
      refine runBlock_congr hsame hop' ?_ hresume
      rw [h.params_eq, runTxn_params]
    · have hpass' : (runTxn s').phase.awaits = false := by rwa [hnext.phase_eq]
      rw [runBlock_runTxn hop hph hpass] at hstall ⊢
      rw [runBlock_runTxn hop' (by rwa [h.phase_eq]) hpass']
      obtain ⟨hwait, _⟩ | ⟨q, hbuild, hq, hless⟩ | ⟨hidle, hnone⟩ := runTxn_cases hop hph
      · rw [hpass] at hwait
        cases hwait
      · exact ih (by rw [runTxn_params]; omega) hq (by simp [hbuild]) hnext hstall
      · rw [runBlock_of_op_none hnone, (ready_iff _).2 ⟨hidle, hnone⟩] at hstall
        cases hstall

/-- Settles O28: the stalled block is in the state of the run without the silent answer, at the call
that took it, so running on gives that run's end (R44, R92). -/
theorem stallOnlyDelaysACommand : Obligations.StallOnlyDelaysACommand := by
  intro i s u pre post hs hanswers hpre h hbusy
  obtain ⟨w, _, rfl⟩ | ⟨_, p, c, hbegins, rfl⟩ := exec_cases h
  · have hidle : ({ s with crcOut := crc5 w } : State).ready = true := hs
    rw [hidle] at hbusy
    cases hbusy
  · have hdelays : delays post (goTo p (if c then clearErrors s else s))
        (goTo p (if c then clearErrors (s.withAnswers (pre ++ post))
          else s.withAnswers (pre ++ post))) := by
      cases c <;> exact ⟨pre, hpre, hanswers, rfl⟩
    have hrun := runBlock_delays _ (Nat.le_refl _) (goTo_op _ p) (by simp) hdelays hbusy
    have hother := exec_of_begins (s := s.withAnswers (pre ++ post)) hs hbegins
    rw [← hrun] at hother
    refine Eq.trans ?_ hother.symm
    simp [step, hbusy]

end Sys2Proof.Machine
